-- ==== Sys2Proof/Config.lean ====
section
/-! DEFINITION. What is fixed for one PFPU core: the sizes of spec/00_scope.md R4, the switchable policies of R5, and
the values the spec leaves under no law (`draw()`, R6 and the primitives table of spec/00_scope.md section 6). -/

namespace Sys2Proof

namespace Config

/-- WORD_BITS (R4, source): width of every register, microcode word, host access and DMA word. -/
@[simp] abbrev wordBits : Nat := 32

/-- REG_INDEX_BITS (R4, decided D4): width of each register index field. -/
@[simp] abbrev regIndexBits : Nat := 7

/-- OPCODE_BITS (R4, decided D2): width of the opcode field. -/
@[simp] abbrev opcodeBits : Nat := 4

/-- ADDR_BITS (R4, decided D13): width of a DMA address. -/
@[simp] abbrev addrBits : Nat := 32

/-- MESH_FIELD_BITS (R4, decided D14): significant bits of MESH_W and MESH_H. -/
@[simp] abbrev meshFieldBits : Nat := 32

/-- COUNTER_BITS (R4, decided D15): width of VERTICES, COLLISIONS and STRAY. -/
@[simp] abbrev counterBits : Nat := 32

/-- NREGS (R4, decided D4): registers in the register file. -/
@[simp] abbrev nRegs : Nat := 128

/-- UCODE_WORDS (R4, source): slots in the microcode store. -/
@[simp] abbrev ucodeWords : Nat := 512

/-- EMIT_WORDS (R4, source): registers written per emission. -/
@[simp] abbrev emitWords : Nat := 4

/-- EMIT_STRIDE (R4, source): bytes between the targets of consecutive points. -/
@[simp] abbrev emitStride : Nat := 16

/-- HOST_WINDOW (R4, from C1): one more than the last byte offset the core decodes. -/
@[simp] abbrev hostWindow : Nat := 0x1000

/-- The bytes of one word, the only width of a host access and of a DMA write (R4, R43, R47). -/
@[simp] abbrev wordBytes : Nat := 4

/-- `draw()`: the n-th value under no law. It has no body, so a claim that mentions it holds for every value. The
model's counter `draws` counts the values used so far (notes/assumptions/2.md). -/
opaque draw : Nat → BitVec wordBits

end Config

/-- The operations that can have a NaN result (R113). -/
inductive FloatOp where
  | add
  | sub
  | mul
  deriving DecidableEq, Repr, Inhabited

/-- Which NaN an operation gives, a value under no law: a function of the operation and of its operand words alone, as R6
wants of the numeric functions. It has no body, so a claim about it holds for every choice (notes/assumptions/26.md). -/
opaque Config.nanDraw : FloatOp → BitVec Config.wordBits → BitVec Config.wordBits → BitVec Config.wordBits

/-- START_WHILE_BUSY (R5, R82): what a start write does while `busy = 1`. -/
inductive StartPolicy where
  | ignore
  | restart
  deriving DecidableEq, Repr, Inhabited

/-- MESH_ORDER (R5, R137): which coordinate pair a point index stands for. -/
inductive MeshOrder where
  | rowMajor
  | columnMajor
  deriving DecidableEq, Repr, Inhabited

/-- DMA_BYTE_ORDER (R5, R46): which byte of a DMA word lies at the lowest address of a byte-addressed memory. -/
inductive ByteOrder where
  | big
  | little
  deriving DecidableEq, Repr, Inhabited

/-- The byte order is OPEN (R5, R46, decision D24): a constant without a body, so nothing can be proved of which it is.
Only `State.reset` mentions it (notes/assumptions/4.md). -/
opaque Config.dmaByteOrder : ByteOrder

/-- The three switchable policies of R5, fixed for one machine: no step changes them. -/
structure Policy where
  startWhileBusy : StartPolicy
  meshOrder      : MeshOrder
  dmaByteOrder   : ByteOrder
  deriving DecidableEq, Repr

/-- The defaults of R5; the byte order has none and stays open. -/
def Policy.default : Policy :=
  { startWhileBusy := .ignore, meshOrder := .rowMajor, dmaByteOrder := Config.dmaByteOrder }

end Sys2Proof
end

