-- ==== Sys2Proof/Word.lean ====
section
/-! DEFINITION. The bit vectors of the PFPU core, one type for each width of spec/00_scope.md R4. -/

namespace Sys2Proof

/-- A word: a register, a microcode slot, a host access, a DMA word (WORD_BITS, R4; R46). -/
abbrev Word := BitVec Config.wordBits

/-- A byte of the external memory (R46). -/
abbrev Byte := BitVec 8

/-- A register index field: an unsigned 7-bit number, 0 to 127, every value legal (REG_INDEX_BITS, R4; R62). Its addition
wraps modulo 128, as R153 wants for the registers of an emission. -/
abbrev RegIdx := BitVec Config.regIndexBits

/-- The opcode field (OPCODE_BITS, R4; R63). -/
abbrev Opcode := BitVec Config.opcodeBits

/-- A byte address of the external memory (ADDR_BITS, R4; R18, R26, R40 (d)). -/
abbrev Addr := BitVec Config.addrBits

/-- The value of MESH_W or MESH_H (MESH_FIELD_BITS, R4; R19, R20). -/
abbrev MeshField := BitVec Config.meshFieldBits

/-- A counter of the core (COUNTER_BITS, R4; R21 to R23). -/
abbrev Counter := BitVec Config.counterBits

end Sys2Proof
end

