-- ==== Sys2Proof/Machine/HostOp.lean ====
section
/-! DEFINITION. The inputs of the PFPU core as data: a host operation on the host port (spec/00_scope.md R3 (a), R7;
spec/20_memory.md R41), the stimuli a schedule is made of (R7: host, core, reset), the events the core sends out on its
ports (R3 (b), (c); spec/20_memory.md R41), and the targets of the address map (spec/20_memory.md R42). -/

namespace Sys2Proof.Machine

open Sys2Proof

/-- One host operation: `width` bytes at byte offset `off`. Only the aligned 4-byte accesses inside the window are
operations of the host agent (R43); the others are data here so that the model can refuse them by name. -/
inductive HostOp where
  | read  (width off : Nat)
  | write (width off : Nat) (v : Word)
  deriving DecidableEq, Repr

/-- The byte offset a host operation names (R41). -/
def HostOp.offset : HostOp → Nat
  | .read _ off => off
  | .write _ off _ => off

/-- The bytes a host operation moves (R43). -/
def HostOp.width : HostOp → Nat
  | .read w _ => w
  | .write w _ _ => w

/-- One turn of the schedule (R7): a host operation, a turn of the core, or the reset input. -/
inductive Stimulus where
  | host (op : HostOp)
  | core
  | reset
  deriving DecidableEq, Repr

/-- What the core shows on its ports: a word write on the DMA port (R47), the interrupt pulse (R173), the word a
host read returned (R41). -/
inductive PortEvent where
  | memWrite (addr : Addr) (v : Word)
  | irqPulse
  | readData (off : Nat) (v : Word)
  deriving DecidableEq, Repr

/-- What an aligned offset of the host window reaches (R42). -/
inductive HostTarget where
  | ctl
  | dmaBase
  | meshW
  | meshH
  | vertices
  | collisions
  | stray
  | regfile (n : RegIdx)
  | microcode (k : Fin Config.ucodeWords)
  | unmapped
  deriving DecidableEq, Repr

end Sys2Proof.Machine
end

