-- ==== Sys2Proof/Machine/State.lean ====
section
/-! DEFINITION. The state of the PFPU core, all of it plain data, the reasons a step can stop, and the state after
reset. `CoreState` is exactly the record of spec/10_state.md R10 (`busy` is not stored: it is `fsm = RUNNING`, R15);
`State` adds what stands around the core: the external memory behind the DMA port, the events seen on the ports, the
schedule of the other agents, the policies of R5 and the counter of free values. -/

namespace Sys2Proof.Machine

open Sys2Proof

/-- Why a step faults. The core has no fault channel ("No exception/fault channel exists", spec/60_exceptions.md R170;
spec/93_implementation_defined.md: "No entry is treated as fault"), so there is no reason at all: nothing raises a
fault, and that no step faults holds by the type (safe: the spec's own words). -/
inductive Fault where
  deriving DecidableEq, Repr

/-- Why the model declines to go on. Only host operations the spec gives no meaning to are refused. -/
inductive Refusal where
  /-- An instruction without a meaning; raised by no arm of `exec` in this model (safe: the model says nothing). -/
  | notModelled (mnemonic : String)
  /-- R43: a host access that is not one 32-bit word; raised by `hostOp` (safe). -/
  | hostAccessWidth (width : Nat)
  /-- R43: a host access at an offset that is not a multiple of 4; raised by `hostOp` (safe). -/
  | hostAccessMisaligned (off : Nat)
  /-- R44: an offset at or above 0x1000, which is not the core's; raised by `hostOp` (safe). -/
  | hostOffsetOutsideWindow (off : Nat)
  /-- R95: a host write to REGFILE or MICROCODE while `busy = 1`; raised by `hostWrite` (safe). -/
  | hostWriteDuringRun (off : Nat)
  deriving DecidableEq, Repr

/-- R15: the states of the Mesh Iteration Controller. -/
inductive Fsm where
  | idle
  | running
  | done
  deriving DecidableEq, Repr

/-- The external memory as the core's writes have left it: (byte address, byte) pairs, addresses strictly rising. An
address the core has not written is not listed and reads as nothing (notes/assumptions/5.md). -/
abbrev Memory := List Host.Cell

/-- The canonical form of a memory: addresses strictly rising, each a 32-bit byte address (spec/20_memory.md R40 (d)). -/
abbrev Memory.wf (m : Memory) : Prop :=
  m.Pairwise (fun c c' => c.1 < c'.1) ∧ ∀ c ∈ m, c.1 < 2 ^ Config.addrBits

/-- R10: the state of the core, field by field. -/
structure CoreState where
  /-- `x[0..127]`, R11. -/
  x          : Vector Word Config.nRegs
  /-- `ucode[0..511]`, R13. -/
  ucode      : Vector Word Config.ucodeWords
  /-- R14: a slot index, 0 to 512; 512 is the stalled pass. -/
  pc         : Nat
  /-- R15. -/
  fsm        : Fsm
  /-- R16: the current pass has already emitted. -/
  emitted    : Bool
  /-- R18. -/
  dmaBase    : Addr
  /-- R19: width less one. -/
  meshW      : MeshField
  /-- R20: height less one. -/
  meshH      : MeshField
  /-- R21. -/
  vertices   : Counter
  /-- R22. -/
  collisions : Counter
  /-- R23. -/
  stray      : Counter
  /-- R24: the copy of `dmaBase` the run uses. -/
  runBase    : Addr
  /-- R24: the copy of `meshW` the run uses. -/
  runW       : MeshField
  /-- R24: the copy of `meshH` the run uses. -/
  runH       : MeshField
  /-- R25: the point index, an unbounded natural. -/
  idx        : Nat
  /-- R26: the finite set of emission addresses of the run, as a strictly rising list. -/
  written    : List Addr
  /-- R27: ghost, the pulses sent since reset. -/
  irqCount   : Nat
  deriving DecidableEq, Repr

/-- The core and what stands around it. -/
structure State extends CoreState where
  /-- The external memory the DMA port writes to (R40 (d)). -/
  mem    : Memory
  /-- Ghost: what the core has shown on its ports, newest first (R3, R49). -/
  port   : List PortEvent
  /-- The turns of the agents still to come, the next one first (R7); when it is empty the core has the turn. -/
  inbox  : List Stimulus
  /-- The policies of R5; no step changes them. -/
  policy : Policy
  /-- How many values of `Config.draw` have been used. -/
  draws  : Nat
  deriving DecidableEq, Repr

/-- R15: `busy = 1` exactly when `fsm = RUNNING`. -/
def CoreState.busy (s : CoreState) : Bool := s.fsm == .running

/-- R29: the core after reset, for any contents of the register file and the microcode store, which R29 leaves
unspecified. -/
def CoreState.afterReset (x : Vector Word Config.nRegs) (ucode : Vector Word Config.ucodeWords) : CoreState :=
  { x := x, ucode := ucode, pc := 0, fsm := .idle, emitted := false
    dmaBase := 0, meshW := 0, meshH := 0
    vertices := 0, collisions := 0, stray := 0
    runBase := 0, runW := 0, runH := 0
    idx := 0, written := [], irqCount := 0 }

/-- The machine right after reset (R29): no external byte written, no port event seen, nothing scheduled. The register
file and the microcode store, which R29 leaves unspecified, are zero here (DESIGN CHOICE, notes/assumptions/1.md). -/
def State.reset : State :=
  { CoreState.afterReset (Vector.replicate _ 0) (Vector.replicate _ 0) with
    mem := [], port := [], inbox := [], policy := Policy.default, draws := 0 }

end Sys2Proof.Machine
end

