-- ==== Sys2Proof/Machine/Ops.lean ====
section
/-! DEFINITION. The named operations over the memory, the address set, the registers, the counters and the free values
of the state. There is no operation that takes an exception and none that returns from one: the core has no exception,
no trap entry and no trap return (spec/60_exceptions.md R170, R176, R177). -/

namespace Sys2Proof.Machine

open Sys2Proof

/-! ## The external memory (spec/20_memory.md R40 (d), R46, R47) -/

/-- The byte the core's writes have left at address `a`; none where the core has not written. -/
def Memory.read : Memory → Nat → Option Byte
  | [], _ => none
  | c :: m, a => if c.1 = a then some c.2 else Memory.read m a

/-- One byte written; a later write to an address replaces the earlier one (R49). -/
def Memory.write : Memory → Nat → Byte → Memory
  | [], a, b => [(a, b)]
  | c :: m, a, b =>
    if a < c.1 then (a, b) :: c :: m
    else if a = c.1 then (a, b) :: m
    else c :: Memory.write m a b

/-- R46: the byte of word `v` that lies `k` bytes above its address. -/
def wordByte (order : ByteOrder) (v : Word) (k : Nat) : Byte :=
  match order with
  | .big    => v.extractLsb' (8 * (3 - k)) 8
  | .little => v.extractLsb' (8 * k) 8

/-- The address `k` bytes above `a`, modulo 2^32 (R47, notes/assumptions/6.md). -/
def byteAddr (a : Addr) (k : Nat) : Nat := (a + BitVec.ofNat Config.addrBits k).toNat

/-- R46, R47: one word written at bytes `a` to `a + 3`. -/
def Memory.writeWord (order : ByteOrder) (m : Memory) (a : Addr) (v : Word) : Memory :=
  (((m.write (byteAddr a 0) (wordByte order v 0)).write (byteAddr a 1) (wordByte order v 1)).write
    (byteAddr a 2) (wordByte order v 2)).write (byteAddr a 3) (wordByte order v 3)

/-! ## The address set of the hazard detector (spec/10_state.md R26) -/

/-- `written ∪ {addr}`, keeping the list strictly rising. -/
def insertAddr (a : Addr) : List Addr → List Addr
  | [] => [a]
  | c :: l =>
    if a.toNat < c.toNat then a :: c :: l
    else if a = c then c :: l
    else c :: insertAddr a l

/-! ## Counters (spec/44_hazard_detector.md R164) -/

/-- `sat32(c + 1)`. -/
def sat32Succ (c : Counter) : Counter := if c = BitVec.allOnes Config.counterBits then c else c + 1

/-! ## Registers (spec/10_state.md R11, R12) -/

/-- `x[i]`. No register is hard-wired or aliased (R12). -/
def State.reg (s : State) (i : RegIdx) : Word := s.x[i.toNat]'i.isLt

/-- `x[i] <- v`. -/
def State.setReg (s : State) (i : RegIdx) (v : Word) : State := { s with x := s.x.set i.toNat v i.isLt }

/-! ## Free values (`draw()`, spec/00_scope.md section 6) -/

/-- The next free value. -/
def State.freeWord (s : State) : Word := Config.draw s.draws

/-- Count `n` free values as used. -/
def State.useDraws (s : State) (n : Nat) : State := { s with draws := s.draws + n }

/-! ## The ports (spec/00_scope.md R3) -/

/-- `MemWrite(addr, 4, v)`: one atomic word write on the DMA port (R47). -/
def State.memWrite (s : State) (addr : Addr) (v : Word) : State :=
  { s with mem := s.mem.writeWord s.policy.dmaByteOrder addr v, port := .memWrite addr v :: s.port }

/-- The word a host read returns, on the host port (R41). -/
def State.putReadData (s : State) (off : Nat) (v : Word) : State := { s with port := .readData off v :: s.port }

/-! ## The reset input (spec/70_reset_and_hazards.md R190) -/

/-- R190, R29: every field of the core at its reset value, in any state. The register file and the microcode store hold
unspecified words, one unknown content per reset (spec/93_implementation_defined.md U10): 640 free values. The external
memory keeps what was written; no pulse is sent. -/
def State.resetInput (s : State) : State :=
  { s with
    toCoreState := CoreState.afterReset (Vector.ofFn fun i => Config.draw (s.draws + i.val))
      (Vector.ofFn fun k => Config.draw (s.draws + Config.nRegs + k.val))
    draws := s.draws + Config.nRegs + Config.ucodeWords }

end Sys2Proof.Machine
end

