-- ==== Sys2Proof/Machine/Operands.lean ====
section
/-! DEFINITION. The operand forms of the microcode (spec/30_encoding.md R62): there is one, a register index used
without scaling, extension or bias (`State.reg`, `State.setReg`). The four registers of an emission are named by an
index that wraps modulo 128 (spec/43_dma_output.md R153). There are no immediates and no memory operands. -/

namespace Sys2Proof.Machine

open Sys2Proof

/-- R151, R153: the register `k` places above `d`, modulo 128. -/
def emitReg (d : RegIdx) (k : Nat) : RegIdx := d + BitVec.ofNat Config.regIndexBits k

/-- R151: the word `k` of an emission with first register `d`. -/
def State.emitWord (s : State) (d : RegIdx) (k : Nat) : Word := s.reg (emitReg d k)

end Sys2Proof.Machine
end

