-- ==== Sys2Proof/Machine/Dma.lean ====
section
/-! DEFINITION. The DMA Output Engine (spec/43_dma_output.md) and the Hazard/Anomaly Detector
(spec/44_hazard_detector.md): the emission, in the order R154 fixes. Neither suppresses, delays or redirects a write. -/

namespace Sys2Proof.Machine

open Sys2Proof

/-- R150: `addr = (run_base + 16 × idx) mod 2^32`. -/
def CoreState.emitAddr (s : CoreState) : Addr := s.runBase + BitVec.ofNat Config.addrBits (Config.emitStride * s.idx)

/-- R151: the address of word `k` of an emission at `addr`, modulo 2^32. -/
def emitWordAddr (addr : Addr) (k : Nat) : Addr := addr + BitVec.ofNat Config.addrBits (Config.wordBytes * k)

/-- R161: the collision test, on the set as it stood before the emission. -/
def State.testCollision (s : State) : State :=
  { s with collisions := if s.emitAddr ∈ s.written then sat32Succ s.collisions else s.collisions }

/-- R162: the stray-write test, on the bit as it stood before the emission. -/
def State.testStray (s : State) : State :=
  { s with stray := if s.emitted then sat32Succ s.stray else s.stray }

/-- R152: every emission counts one vertex. -/
def State.countVertex (s : State) : State := { s with vertices := sat32Succ s.vertices }

/-- R151: the EMIT_WORDS writes, in ascending order; nothing a write does changes an address or a register. -/
def State.writeVector (s : State) (d : RegIdx) : State :=
  (List.range Config.emitWords).foldl (fun t k => t.memWrite (emitWordAddr s.emitAddr k) (s.emitWord d k)) s

/-- R154, R160, R162: the address joins `written` and the pass has emitted. -/
def State.markEmitted (s : State) : State :=
  { s with written := insertAddr s.emitAddr s.written, emitted := true }

/-- R154: `Emission(d)`. -/
def State.emission (s : State) (d : RegIdx) : State :=
  (((s.testCollision.testStray).countVertex).writeVector d).markEmitted

end Sys2Proof.Machine
end

