-- ==== Sys2Proof/Machine/Mesh.lean ====
section
/-! DEFINITION. The Mesh Iteration Controller (spec/42_mesh_controller.md): the start action, the end of a pass, the DONE
transition, the stall, the point count and the point coordinates. -/

namespace Sys2Proof.Machine

open Sys2Proof

/-- R132: the total point count, in unbounded integers. -/
def CoreState.total (s : CoreState) : Nat := (s.runW.toNat + 1) * (s.runH.toNat + 1)

/-- R81, R131: the action of an accepted start. -/
def State.startRun (s : State) : State :=
  { s with
    runBase := s.dmaBase, runW := s.meshW, runH := s.meshH
    vertices := 0, collisions := 0, stray := 0
    written := [], emitted := false
    idx := 0, pc := 0
    fsm := .running }

/-- R135: the DONE transition: busy is cleared and the interrupt pulses, in one action. -/
def State.finishRun (s : State) : State :=
  { s with fsm := .done, irqCount := s.irqCount + 1, port := .irqPulse :: s.port }

/-- R134: the point index advances by one. -/
def State.advanceIdx (s : State) : State := { s with idx := s.idx + 1 }

/-- R134: the next pass begins. -/
def State.nextPass (s : State) : State := { s with pc := 0, emitted := false }

/-- R134: `EndOfPass()`. -/
def State.endOfPass (s : State) : State :=
  if s.advanceIdx.idx = s.advanceIdx.total then s.advanceIdx.finishRun else s.advanceIdx.nextPass

/-- R116: `pc <- pc + 1`; after slot 511 it is 512 and the pass has stalled (R136). -/
def State.advancePc (s : State) : State := { s with pc := s.pc + 1 }

/-- R136: the run has stalled. -/
abbrev CoreState.Stalled (s : CoreState) : Prop := s.fsm = .running ∧ s.pc = Config.ucodeWords

/-- R25, R137: the coordinates `(px, py)` of the point `idx`, which nothing in the core reads. -/
def State.point (s : State) : Nat × Nat :=
  match s.policy.meshOrder with
  | .rowMajor    => (s.idx % (s.runW.toNat + 1), s.idx / (s.runW.toNat + 1))
  | .columnMajor => (s.idx / (s.runH.toNat + 1), s.idx % (s.runH.toNat + 1))

end Sys2Proof.Machine
end

