-- ==== Sys2Proof/Machine/Flags.lean ====
section
/-! DEFINITION. The two flags of an instruction word, EMIT-VECTOR and END-OF-PROGRAM, as phases 2 and 3 of every core
step (spec/41_decoder_alu.md R102, R110, R111, R116). The core has no condition flag of any kind, and no instruction
writes one (spec/41_decoder_alu.md R114; spec/10_state.md R16). -/

namespace Sys2Proof.Machine

open Sys2Proof

/-- Phase 2 (R110): an instruction with `emit = 1` performs exactly one emission. -/
def State.emitPhase (s : State) (emit : Bool) (d : RegIdx) : State := if emit then s.emission d else s

/-- Phase 3 (R111, R116): an instruction with `end = 1` ends the pass; any other advances `pc` by one. -/
def State.endPhase (s : State) (eop : Bool) : State := if eop then s.endOfPass else s.advancePc

/-- Phases 2 and 3 of a core step, after the operation of phase 1 (R102). -/
def State.retire (s : State) (eop emit : Bool) (d : RegIdx) : State := (s.emitPhase emit d).endPhase eop

end Sys2Proof.Machine
end

