-- ==== Sys2Proof/Machine/Float.lean ====
section
/-! DEFINITION. The numeric functions of spec/00_scope.md R6, as spec/41_decoder_alu.md R104 to R107, R112 and R113
decide them: IEEE 754 binary32, round to nearest with ties to even, gradual underflow, signed zeros and infinities.
Every finite binary32 number is an integer multiple of 2^-149 and every product of two is one of 2^-298, so the exact
result is an integer and there is one rounding, in `roundMag`. A NaN result carries no bits of its own (R113). -/

namespace Sys2Proof.Machine

open Sys2Proof

/-- A binary32 datum: `finite neg mag` is `mag × 2^-149`, negated if `neg` (so `finite true 0` is −0). -/
inductive F32 where
  | nan
  | inf (neg : Bool)
  | finite (neg : Bool) (mag : Nat)
  deriving DecidableEq, Repr

/-- `f32(w)`: sign `w[31]`, exponent `w[30:23]`, fraction `w[22:0]` (spec/00_scope.md section 6). -/
def F32.ofWord (w : Word) : F32 :=
  let neg := w.getLsbD 31
  let e := (w.extractLsb' 23 8).toNat
  let f := (w.extractLsb' 0 23).toNat
  if e = 255 then (if f = 0 then .inf neg else .nan)
  else if e = 0 then .finite neg f
  else .finite neg ((2 ^ 23 + f) * 2 ^ (e - 1))

/-- The datum with its sign flipped. -/
def F32.negate : F32 → F32
  | .nan => .nan
  | .inf n => .inf (!n)
  | .finite n m => .finite (!n) m

/-- The signed magnitude of a finite datum, in units of 2^-149. -/
def signedMag (neg : Bool) (mag : Nat) : Int := if neg then -(mag : Int) else mag

/-- The word with sign `neg` and the 31 low bits `bits`. -/
def withSign (neg : Bool) (bits : Nat) : Word := BitVec.ofNat Config.wordBits ((if neg then 2 ^ 31 else 0) + bits)

/-- The exponent and fraction bits of infinity. -/
abbrev infBits : Nat := 0x7F800000

/-- `m / 2^k` rounded to the nearest integer, ties to even. -/
def roundShift (m k : Nat) : Nat :=
  let q := m / 2 ^ k
  let r := m % 2 ^ k
  if 2 * r < 2 ^ k then q else if 2 ^ k < 2 * r then q + 1 else q + q % 2

/-- The exponent and fraction bits of the binary32 number nearest `m × 2^-298`, ties to even (R112). The quantum is
2^-149 for the subnormals and the lowest normal binade, and grows with the binade above; the exponent field counts the
doublings, so a significand that rounds up to 2^24 carries into it. A magnitude that rounds past the largest finite
number is an infinity. -/
def roundMag (m : Nat) : Nat :=
  let shift := max (m.log2 - 23) 149
  min ((shift - 149) * 2 ^ 23 + roundShift m shift) infBits

/-- The result of a floating-point operation: a word, or some NaN (R113). -/
inductive FloatResult where
  | word (w : Word)
  | someNaN
  deriving DecidableEq, Repr

/-- IEEE 754 addition of two data. An exact zero sum is −0 only where both operands are negative (R104, R105). -/
def F32.add : F32 → F32 → FloatResult
  | .nan, _ => .someNaN
  | _, .nan => .someNaN
  | .inf n, .inf n' => if n = n' then .word (withSign n infBits) else .someNaN
  | .inf n, .finite _ _ => .word (withSign n infBits)
  | .finite _ _, .inf n => .word (withSign n infBits)
  | .finite n m, .finite n' m' =>
    let z := signedMag n m + signedMag n' m'
    if z = 0 then .word (withSign (n && n') 0)
    else .word (withSign (decide (z < 0)) (roundMag (z.natAbs * 2 ^ 149)))

/-- IEEE 754 multiplication of two data: the sign is the exclusive-or of the signs; 0 × ∞ is a NaN (R106). -/
def F32.mul : F32 → F32 → FloatResult
  | .nan, _ => .someNaN
  | _, .nan => .someNaN
  | .inf n, .inf n' => .word (withSign (n ^^ n') infBits)
  | .inf n, .finite n' m => if m = 0 then .someNaN else .word (withSign (n ^^ n') infBits)
  | .finite n m, .inf n' => if m = 0 then .someNaN else .word (withSign (n ^^ n') infBits)
  | .finite n m, .finite n' m' => .word (withSign (n ^^ n') (roundMag (m * m')))

/-- `i32_to_f32`: the source read as a signed two's-complement integer (R107). -/
def i32ToF32 (a : Word) : Word :=
  withSign (decide (a.toInt < 0)) (roundMag (a.toInt.natAbs * 2 ^ 149 * 2 ^ 149))

/-- R113: a NaN encoding: exponent bits all ones and fraction non-zero. -/
abbrev IsNaNWord (w : Word) : Prop := w.extractLsb' 23 8 = 255 ∧ w.extractLsb' 0 23 ≠ 0

/-- A free word restricted to the NaN encodings; every NaN encoding is the image of itself (R113). -/
def nanOf (w : Word) : Word :=
  let v := w ||| 0x7F800000
  if v.extractLsb' 0 23 = 0 then v ||| 1 else v

/-- The word of a result of `op` on the operand words `a` and `b`: some NaN is the free word of that operation on those
operands, restricted to the NaN encodings (R6, R113). -/
def FloatResult.toWord (op : FloatOp) (a b : Word) : FloatResult → Word
  | .word w => w
  | .someNaN => nanOf (Config.nanDraw op a b)

/-- `f32_add` (R6, R104, R112). -/
def f32Add (a b : Word) : Word := ((F32.ofWord a).add (F32.ofWord b)).toWord .add a b

/-- `f32_sub`: A minus B (R6, R105, R112). -/
def f32Sub (a b : Word) : Word := ((F32.ofWord a).add (F32.ofWord b).negate).toWord .sub a b

/-- `f32_mul` (R6, R106, R112). -/
def f32Mul (a b : Word) : Word := ((F32.ofWord a).mul (F32.ofWord b)).toWord .mul a b

end Sys2Proof.Machine
end

