-- ==== Sys2Proof/Machine/Alu.lean ====
section
/-! DEFINITION. The meanings of the six operations (spec/41_decoder_alu.md R102 to R108). Each is one core step: phase 1,
with its sources read before its destination is written (R117), then the flags. None traps, whatever the operands
(R114, R170). -/

namespace Sys2Proof.Machine

open Sys2Proof

/-- NOP (R103): phase 1 does nothing. -/
def execNop (eop emit : Bool) (d : RegIdx) (s : State) : Host.Outcome State Fault Refusal :=
  .next (s.retire eop emit d)

/-- FADD (R104): `x[d] <- f32_add(x[a], x[b])`. -/
def execFadd (eop emit : Bool) (a b d : RegIdx) (s : State) : Host.Outcome State Fault Refusal :=
  .next ((s.setReg d (f32Add (s.reg a) (s.reg b))).retire eop emit d)

/-- FSUB (R105): `x[d] <- f32_sub(x[a], x[b])`, A minus B. -/
def execFsub (eop emit : Bool) (a b d : RegIdx) (s : State) : Host.Outcome State Fault Refusal :=
  .next ((s.setReg d (f32Sub (s.reg a) (s.reg b))).retire eop emit d)

/-- FMUL (R106): `x[d] <- f32_mul(x[a], x[b])`. -/
def execFmul (eop emit : Bool) (a b d : RegIdx) (s : State) : Host.Outcome State Fault Refusal :=
  .next ((s.setReg d (f32Mul (s.reg a) (s.reg b))).retire eop emit d)

/-- I2F (R107): `x[d] <- i32_to_f32(x[a])`, signed. -/
def execI2f (eop emit : Bool) (a d : RegIdx) (s : State) : Host.Outcome State Fault Refusal :=
  .next ((s.setReg d (i32ToF32 (s.reg a))).retire eop emit d)

/-- COPY (R108): `x[d] <- x[a]`, the 32 bits unchanged. -/
def execCopy (eop emit : Bool) (a d : RegIdx) (s : State) : Host.Outcome State Fault Refusal :=
  .next ((s.setReg d (s.reg a)).retire eop emit d)

end Sys2Proof.Machine
end

