-- ==== Sys2Proof/Machine/Undefined.lean ====
section
/-! DEFINITION. The meanings of the ten undefined opcodes (spec/30_encoding.md R64; spec/41_decoder_alu.md R109): phase 1
reads and writes no register, and END, EMIT and DEST are honoured as for NOP. -/

namespace Sys2Proof.Machine

open Sys2Proof

/-- R109: the shared step of an undefined opcode. -/
def retireUndefined (eop emit : Bool) (d : RegIdx) (s : State) : Host.Outcome State Fault Refusal :=
  .next (s.retire eop emit d)

/-- OPCODE 4, undefined (R109). -/
def execUndef4 (eop emit : Bool) (d : RegIdx) (s : State) : Host.Outcome State Fault Refusal :=
  retireUndefined eop emit d s

/-- OPCODE 5, undefined (R109). -/
def execUndef5 (eop emit : Bool) (d : RegIdx) (s : State) : Host.Outcome State Fault Refusal :=
  retireUndefined eop emit d s

/-- OPCODE 7, undefined (R109). -/
def execUndef7 (eop emit : Bool) (d : RegIdx) (s : State) : Host.Outcome State Fault Refusal :=
  retireUndefined eop emit d s

/-- OPCODE 8, undefined (R109). -/
def execUndef8 (eop emit : Bool) (d : RegIdx) (s : State) : Host.Outcome State Fault Refusal :=
  retireUndefined eop emit d s

/-- OPCODE 9, undefined (R109). -/
def execUndef9 (eop emit : Bool) (d : RegIdx) (s : State) : Host.Outcome State Fault Refusal :=
  retireUndefined eop emit d s

/-- OPCODE 10, undefined (R109). -/
def execUndef10 (eop emit : Bool) (d : RegIdx) (s : State) : Host.Outcome State Fault Refusal :=
  retireUndefined eop emit d s

/-- OPCODE 11, undefined (R109). -/
def execUndef11 (eop emit : Bool) (d : RegIdx) (s : State) : Host.Outcome State Fault Refusal :=
  retireUndefined eop emit d s

/-- OPCODE 13, undefined (R109). -/
def execUndef13 (eop emit : Bool) (d : RegIdx) (s : State) : Host.Outcome State Fault Refusal :=
  retireUndefined eop emit d s

/-- OPCODE 14, undefined (R109). -/
def execUndef14 (eop emit : Bool) (d : RegIdx) (s : State) : Host.Outcome State Fault Refusal :=
  retireUndefined eop emit d s

/-- OPCODE 15, undefined (R109). -/
def execUndef15 (eop emit : Bool) (d : RegIdx) (s : State) : Host.Outcome State Fault Refusal :=
  retireUndefined eop emit d s

end Sys2Proof.Machine
end

