-- ==== Sys2Proof/Syntax.lean ====
section
/-! DEFINITION. The instructions of the PFPU microcode, one constructor per row of spec/opcode_table.json
(spec/30_encoding.md R63, R64). Every constructor holds the whole decoded record of R67 but for the opcode, which is
the constructor: `eop` is END (bit 31), `emit` is EMIT (bit 30), `a` is SRCA, `b` is SRCB, `d` is DEST. The fields an
operation ignores (R62) are kept, so that decoding drops nothing but the reserved bits of R65. -/

namespace Sys2Proof

inductive Instr where
  /-- OPCODE 0, R103: no operation; the natural carrier of the two flags. -/
  | nop (eop emit : Bool) (a b d : RegIdx)
  /-- OPCODE 1, R104: binary32 addition of `x[a]` and `x[b]` into `x[d]`. -/
  | fadd (eop emit : Bool) (a b d : RegIdx)
  /-- OPCODE 2, R105: binary32 subtraction, `x[a]` minus `x[b]`, into `x[d]`. -/
  | fsub (eop emit : Bool) (a b d : RegIdx)
  /-- OPCODE 3, R106: binary32 multiplication of `x[a]` and `x[b]` into `x[d]`. -/
  | fmul (eop emit : Bool) (a b d : RegIdx)
  /-- OPCODE 4, R64 and R109: an undefined opcode; executes as NOP with its flags and DEST honoured. -/
  | undef4 (eop emit : Bool) (a b d : RegIdx)
  /-- OPCODE 5, R64 and R109: an undefined opcode; executes as NOP with its flags and DEST honoured. -/
  | undef5 (eop emit : Bool) (a b d : RegIdx)
  /-- OPCODE 6, R107: signed integer `x[a]` to binary32 into `x[d]`; `b` is ignored. -/
  | i2f (eop emit : Bool) (a b d : RegIdx)
  /-- OPCODE 7, R64 and R109: an undefined opcode; executes as NOP with its flags and DEST honoured. -/
  | undef7 (eop emit : Bool) (a b d : RegIdx)
  /-- OPCODE 8, R64 and R109: an undefined opcode; executes as NOP with its flags and DEST honoured. -/
  | undef8 (eop emit : Bool) (a b d : RegIdx)
  /-- OPCODE 9, R64 and R109: an undefined opcode; executes as NOP with its flags and DEST honoured. -/
  | undef9 (eop emit : Bool) (a b d : RegIdx)
  /-- OPCODE 10, R64 and R109: an undefined opcode; executes as NOP with its flags and DEST honoured. -/
  | undef10 (eop emit : Bool) (a b d : RegIdx)
  /-- OPCODE 11, R64 and R109: an undefined opcode; executes as NOP with its flags and DEST honoured. -/
  | undef11 (eop emit : Bool) (a b d : RegIdx)
  /-- OPCODE 12, R108: `x[a]` moved bit-exactly into `x[d]`; `b` is ignored. -/
  | copy (eop emit : Bool) (a b d : RegIdx)
  /-- OPCODE 13, R64 and R109: an undefined opcode; executes as NOP with its flags and DEST honoured. -/
  | undef13 (eop emit : Bool) (a b d : RegIdx)
  /-- OPCODE 14, R64 and R109: an undefined opcode; executes as NOP with its flags and DEST honoured. -/
  | undef14 (eop emit : Bool) (a b d : RegIdx)
  /-- OPCODE 15, R64 and R109: an undefined opcode; executes as NOP with its flags and DEST honoured. -/
  | undef15 (eop emit : Bool) (a b d : RegIdx)
  deriving DecidableEq, Repr

/-- The END-OF-PROGRAM flag of an instruction (R61, R69). -/
def Instr.eop : Instr → Bool
  | .nop e _ _ _ _ | .fadd e _ _ _ _ | .fsub e _ _ _ _ | .fmul e _ _ _ _
  | .undef4 e _ _ _ _ | .undef5 e _ _ _ _ | .i2f e _ _ _ _ | .undef7 e _ _ _ _
  | .undef8 e _ _ _ _ | .undef9 e _ _ _ _ | .undef10 e _ _ _ _ | .undef11 e _ _ _ _
  | .copy e _ _ _ _ | .undef13 e _ _ _ _ | .undef14 e _ _ _ _ | .undef15 e _ _ _ _ => e

/-- The EMIT-VECTOR flag of an instruction (R61, R69). -/
def Instr.emit : Instr → Bool
  | .nop _ m _ _ _ | .fadd _ m _ _ _ | .fsub _ m _ _ _ | .fmul _ m _ _ _
  | .undef4 _ m _ _ _ | .undef5 _ m _ _ _ | .i2f _ m _ _ _ | .undef7 _ m _ _ _
  | .undef8 _ m _ _ _ | .undef9 _ m _ _ _ | .undef10 _ m _ _ _ | .undef11 _ m _ _ _
  | .copy _ m _ _ _ | .undef13 _ m _ _ _ | .undef14 _ m _ _ _ | .undef15 _ m _ _ _ => m

/-- The SRCA field (R61, R62). -/
def Instr.srcA : Instr → RegIdx
  | .nop _ _ a _ _ | .fadd _ _ a _ _ | .fsub _ _ a _ _ | .fmul _ _ a _ _
  | .undef4 _ _ a _ _ | .undef5 _ _ a _ _ | .i2f _ _ a _ _ | .undef7 _ _ a _ _
  | .undef8 _ _ a _ _ | .undef9 _ _ a _ _ | .undef10 _ _ a _ _ | .undef11 _ _ a _ _
  | .copy _ _ a _ _ | .undef13 _ _ a _ _ | .undef14 _ _ a _ _ | .undef15 _ _ a _ _ => a

/-- The SRCB field (R61, R62). -/
def Instr.srcB : Instr → RegIdx
  | .nop _ _ _ b _ | .fadd _ _ _ b _ | .fsub _ _ _ b _ | .fmul _ _ _ b _
  | .undef4 _ _ _ b _ | .undef5 _ _ _ b _ | .i2f _ _ _ b _ | .undef7 _ _ _ b _
  | .undef8 _ _ _ b _ | .undef9 _ _ _ b _ | .undef10 _ _ _ b _ | .undef11 _ _ _ b _
  | .copy _ _ _ b _ | .undef13 _ _ _ b _ | .undef14 _ _ _ b _ | .undef15 _ _ _ b _ => b

/-- The DEST field: the register written, and the first register emitted (R61, R62). -/
def Instr.dest : Instr → RegIdx
  | .nop _ _ _ _ d | .fadd _ _ _ _ d | .fsub _ _ _ _ d | .fmul _ _ _ _ d
  | .undef4 _ _ _ _ d | .undef5 _ _ _ _ d | .i2f _ _ _ _ d | .undef7 _ _ _ _ d
  | .undef8 _ _ _ _ d | .undef9 _ _ _ _ d | .undef10 _ _ _ _ d | .undef11 _ _ _ _ d
  | .copy _ _ _ _ d | .undef13 _ _ _ _ d | .undef14 _ _ _ _ d | .undef15 _ _ _ _ d => d

/-- The OPCODE field of an instruction (R63, R64). -/
def Instr.opcode : Instr → Opcode
  | .nop _ _ _ _ _ => 0
  | .fadd _ _ _ _ _ => 1
  | .fsub _ _ _ _ _ => 2
  | .fmul _ _ _ _ _ => 3
  | .undef4 _ _ _ _ _ => 4
  | .undef5 _ _ _ _ _ => 5
  | .i2f _ _ _ _ _ => 6
  | .undef7 _ _ _ _ _ => 7
  | .undef8 _ _ _ _ _ => 8
  | .undef9 _ _ _ _ _ => 9
  | .undef10 _ _ _ _ _ => 10
  | .undef11 _ _ _ _ _ => 11
  | .copy _ _ _ _ _ => 12
  | .undef13 _ _ _ _ _ => 13
  | .undef14 _ _ _ _ _ => 14
  | .undef15 _ _ _ _ _ => 15

end Sys2Proof
end

