-- ==== Sys2Proof/Machine/Dispatch.lean ====
section
/-! DEFINITION. One arm per instruction, each one call of its meaning. -/

namespace Sys2Proof.Machine

open Sys2Proof

-- The effect of one enabled core step whose fetched word decodes to i (spec/41_decoder_alu.md R102).
def exec (i : Instr) (s : State) : Host.Outcome State Fault Refusal :=
  match i with
  | .nop eop emit _ _ d => Sys2Proof.Machine.execNop eop emit d s
  | .fadd eop emit a b d => Sys2Proof.Machine.execFadd eop emit a b d s
  | .fsub eop emit a b d => Sys2Proof.Machine.execFsub eop emit a b d s
  | .fmul eop emit a b d => Sys2Proof.Machine.execFmul eop emit a b d s
  | .undef4 eop emit _ _ d => Sys2Proof.Machine.execUndef4 eop emit d s
  | .undef5 eop emit _ _ d => Sys2Proof.Machine.execUndef5 eop emit d s
  | .i2f eop emit a _ d => Sys2Proof.Machine.execI2f eop emit a d s
  | .undef7 eop emit _ _ d => Sys2Proof.Machine.execUndef7 eop emit d s
  | .undef8 eop emit _ _ d => Sys2Proof.Machine.execUndef8 eop emit d s
  | .undef9 eop emit _ _ d => Sys2Proof.Machine.execUndef9 eop emit d s
  | .undef10 eop emit _ _ d => Sys2Proof.Machine.execUndef10 eop emit d s
  | .undef11 eop emit _ _ d => Sys2Proof.Machine.execUndef11 eop emit d s
  | .copy eop emit a _ d => Sys2Proof.Machine.execCopy eop emit a d s
  | .undef13 eop emit _ _ d => Sys2Proof.Machine.execUndef13 eop emit d s
  | .undef14 eop emit _ _ d => Sys2Proof.Machine.execUndef14 eop emit d s
  | .undef15 eop emit _ _ d => Sys2Proof.Machine.execUndef15 eop emit d s

end Sys2Proof.Machine
end

