-- ==== Sys2Proof/Decode.lean ====
section
/-! DEFINITION. Decoding and encoding of the microcode word (spec/30_encoding.md R60 to R67, R69). Every one of the
2^32 words decodes (R67), so the decoder has nothing to reject; `encode` is its section that writes RSV as 0 (R65). -/

namespace Sys2Proof

/-- The record of R67: the fields of an instruction word, the reserved bits 29:25 left out (R65). -/
structure Fields where
  eop  : Bool
  emit : Bool
  a    : RegIdx
  b    : RegIdx
  op   : Opcode
  d    : RegIdx
  deriving DecidableEq, Repr

/-- R67: `end = w[31]`, `emit = w[30]`, `a = w[24:18]`, `b = w[17:11]`, `op = w[10:7]`, `d = w[6:0]`. -/
def wordFields (w : Word) : Fields :=
  { eop  := w.getLsbD 31
    emit := w.getLsbD 30
    a    := w.extractLsb' 18 Config.regIndexBits
    b    := w.extractLsb' 11 Config.regIndexBits
    op   := w.extractLsb' 7 Config.opcodeBits
    d    := w.extractLsb' 0 Config.regIndexBits }

/-- R63 and R64: OPCODE selects the constructor. The opcode has 4 bits, so the last arm is 15 alone. -/
def Fields.toInstr (f : Fields) : Instr :=
  match f.op.toNat with
  | 0 => .nop f.eop f.emit f.a f.b f.d
  | 1 => .fadd f.eop f.emit f.a f.b f.d
  | 2 => .fsub f.eop f.emit f.a f.b f.d
  | 3 => .fmul f.eop f.emit f.a f.b f.d
  | 4 => .undef4 f.eop f.emit f.a f.b f.d
  | 5 => .undef5 f.eop f.emit f.a f.b f.d
  | 6 => .i2f f.eop f.emit f.a f.b f.d
  | 7 => .undef7 f.eop f.emit f.a f.b f.d
  | 8 => .undef8 f.eop f.emit f.a f.b f.d
  | 9 => .undef9 f.eop f.emit f.a f.b f.d
  | 10 => .undef10 f.eop f.emit f.a f.b f.d
  | 11 => .undef11 f.eop f.emit f.a f.b f.d
  | 12 => .copy f.eop f.emit f.a f.b f.d
  | 13 => .undef13 f.eop f.emit f.a f.b f.d
  | 14 => .undef14 f.eop f.emit f.a f.b f.d
  | _ => .undef15 f.eop f.emit f.a f.b f.d

/-- The decoder (R67): total and pure. -/
def decode (w : Word) : Instr := (wordFields w).toInstr

/-- The fields of an instruction. -/
def Instr.fields (i : Instr) : Fields :=
  { eop := i.eop, emit := i.emit, a := i.srcA, b := i.srcB, op := i.opcode, d := i.dest }

/-- R61 as a pattern, most significant bit first: `n e rrrrr aaaaaaa bbbbbbb oooo ddddddd`, with RSV written 0 (R65). -/
def Fields.toWord (f : Fields) : Word :=
  BitVec.ofBool f.eop ++ BitVec.ofBool f.emit ++ 0#5 ++ f.a ++ f.b ++ f.op ++ f.d

/-- The encoder (R61, R70): the word of an instruction, reserved bits 0. -/
def encode (i : Instr) : Word := i.fields.toWord

/-- The instruction the decoder reads from an instruction whose bits are `w`. A microcode slot holds the whole word
and no byte order is involved (R46, R60), so the word laid out in its slot is `w` itself. An instruction of more than
32 bits does not exist (R60). -/
def decodeTableWord (nbits w : Nat) : Option Instr :=
  if nbits ≤ Config.wordBits ∧ w < 2 ^ Config.wordBits then some (decode (BitVec.ofNat Config.wordBits w)) else none

end Sys2Proof
end

