-- ==== Sys2Proof/Machine/Fetch.lean ====
section
/-! DEFINITION. Fetch and decode of a core step, and when one is enabled (spec/41_decoder_alu.md R100, R101). -/

namespace Sys2Proof.Machine

open Sys2Proof

/-- R101: the word in slot `pc` of the store; none past the last slot. -/
def CoreState.fetchWord (s : CoreState) : Option Word := s.ucode[s.pc]?

/-- R100, R101: the instruction the next core step executes. There is one exactly when `fsm = RUNNING` and
`pc <= 511`. -/
def CoreState.fetch (s : CoreState) : Option Instr :=
  if s.busy then s.fetchWord.map decode else none

/-- The agent that has the turn is taken off the schedule (R7). -/
def State.takeTurn (s : State) : State := { s with inbox := s.inbox.tail }

/-- The slot an enabled core step fetches from, and slot 0 where the store is exhausted. -/
def CoreState.fetchSlot (s : CoreState) : Nat := if s.pc < Config.ucodeWords then s.pc else 0

/-- `w` in the slot the next step fetches from, the run in progress, and the turn with the core. -/
def State.placeFetchWord (s : State) (w : Word) : State :=
  { s with
    ucode := if h : s.fetchSlot < Config.ucodeWords then s.ucode.set s.fetchSlot w h else s.ucode
    pc := s.fetchSlot
    fsm := .running
    inbox := [] }

end Sys2Proof.Machine
end

