-- ==== Sys2Proof/WellFormed.lean ====
section
/-! DEFINITION. What is well formed. An instruction's fields are bit fields and every value of them is legal
(spec/30_encoding.md R62, R67), so nothing about an instruction is needed for it to encode, decode and run; the one
check the spec calls "well-formed" is the emission discipline on DEST (spec/70_reset_and_hazards.md R200), which no
meaning depends on. A host operation has three checks (spec/20_memory.md R43, R44), and the model refuses an operation
that fails one of them. The discipline of a whole microprogram is in Sys2Proof/Safety.lean. -/

namespace Sys2Proof

/-- R200: an emitting instruction of a well-formed microprogram keeps `DEST <= 124`, so that the four registers it
emits do not wrap past register 127. -/
abbrev Instr.WellFormed (i : Instr) : Prop := i.emit = true → i.dest.toNat ≤ 124

namespace Machine

/-- R43: a host access moves one 32-bit word. -/
abbrev HostOp.WordWide (op : HostOp) : Prop := op.width = Config.wordBytes

/-- R43: the offset is a multiple of 4. -/
abbrev HostOp.Aligned (op : HostOp) : Prop := op.offset % 4 = 0

/-- R44: offsets at or above 0x1000 are not the core's. -/
abbrev HostOp.InWindow (op : HostOp) : Prop := op.offset < Config.hostWindow

/-- R43, R44: an operation of the host agent. -/
abbrev HostOp.WellFormed (op : HostOp) : Prop := op.WordWide ∧ op.Aligned ∧ op.InWindow

end Machine

end Sys2Proof
end

