-- ==== Sys2Proof/Machine/HostPort.lean ====
section
/-! DEFINITION. The host operations (spec/40_control_status.md): what every read and write on the host port does. -/

namespace Sys2Proof.Machine

open Sys2Proof

/-- The address map of spec/20_memory.md R42, for an aligned offset of the host window. -/
def hostTarget (off : Nat) : HostTarget :=
  if off = 0x000 then .ctl
  else if off = 0x004 then .dmaBase
  else if off = 0x008 then .meshW
  else if off = 0x00C then .meshH
  else if off = 0x014 then .vertices
  else if off = 0x018 then .collisions
  else if off = 0x01C then .stray
  else if 0x400 ≤ off ∧ off < 0x600 then .regfile (BitVec.ofNat Config.regIndexBits ((off - 0x400) / 4))
  else if 0x800 ≤ off ∧ off < 0x1000 then .microcode (Fin.ofNat Config.ucodeWords ((off - 0x800) / 4))
  else .unmapped

/-- R80 to R83: a write to CTL is a command on bit 0 alone: a start, accepted while `busy = 0` (R81) and otherwise as
the policy START_WHILE_BUSY says (R82). A 0 does nothing (R83). -/
def State.commandCtl (s : State) (v : Word) : State :=
  if v.getLsbD 0 then
    if s.busy then
      match s.policy.startWhileBusy with
      | .ignore  => s
      | .restart => s.startRun
    else s.startRun
  else s

/-- R93: `ucode[k] <- v`. -/
def State.setUcode (s : State) (k : Fin Config.ucodeWords) (v : Word) : State :=
  { s with ucode := s.ucode.set k.val v k.isLt }

/-- R85: `dma_base <- v`. -/
def State.setDmaBase (s : State) (v : Word) : State := { s with dmaBase := v }

/-- R86: `mesh_w <- v`. -/
def State.setMeshW (s : State) (v : Word) : State := { s with meshW := v }

/-- R87: `mesh_h <- v`. -/
def State.setMeshH (s : State) (v : Word) : State := { s with meshH := v }

/-- `HostWrite(off, v)` for an aligned offset of the window: R80 to R83 (CTL), R85 to R87 (configuration, in every
`fsm` state), R90 (counters are read-only), R92 and R93 (REGFILE and MICROCODE while `busy = 0`), R95 (refused while
`busy = 1`), R96 (unmapped offsets: no state change). -/
def hostWrite (off : Nat) (v : Word) (s : State) : Host.Outcome State Fault Refusal :=
  match hostTarget off with
  | .ctl => .next (s.commandCtl v)
  | .dmaBase => .next (s.setDmaBase v)
  | .meshW => .next (s.setMeshW v)
  | .meshH => .next (s.setMeshH v)
  | .vertices => .next s
  | .collisions => .next s
  | .stray => .next s
  | .regfile n => if s.busy then .refused (.hostWriteDuringRun off) else .next (s.setReg n v)
  | .microcode k => if s.busy then .refused (.hostWriteDuringRun off) else .next (s.setUcode k v)
  | .unmapped => .next s

/-- The word a host read returns where the spec gives one: R84 (CTL), R89 (counters), R91 (REGFILE). The write-only
registers and the unmapped offsets have none (R88, R94, R96). -/
def State.readValue (s : State) (off : Nat) : Option Word :=
  match hostTarget off with
  | .ctl => some (BitVec.zeroExtend Config.wordBits (BitVec.ofBool s.busy))
  | .vertices => some s.vertices
  | .collisions => some s.collisions
  | .stray => some s.stray
  | .regfile n => some (s.reg n)
  | .dmaBase | .meshW | .meshH | .microcode _ | .unmapped => none

/-- `HostRead(off)` for an aligned offset of the window: the value of `readValue`, or `draw()` where there is none. No
read changes the state of the core (R45). -/
def State.hostRead (s : State) (off : Nat) : State :=
  match s.readValue off with
  | some v => s.putReadData off v
  | none => (s.putReadData off s.freeWord).useDraws 1

/-- One host operation. An access that is not one aligned word of the window is no operation of the host agent and is
refused by name (R43, R44). -/
def hostOp (op : HostOp) (s : State) : Host.Outcome State Fault Refusal :=
  if op.WordWide then
    if op.Aligned then
      if op.InWindow then
        match op with
        | .read _ off => .next (s.hostRead off)
        | .write _ off v => hostWrite off v s
      else .refused (.hostOffsetOutsideWindow op.offset)
    else .refused (.hostAccessMisaligned op.offset)
  else .refused (.hostAccessWidth op.width)

end Sys2Proof.Machine
end

