-- ==== Sys2Proof/Machine/Step.lean ====
section
/-! DEFINITION. One step of the machine: the agent whose turn it is acts, atomically (spec/00_scope.md R7). -/

namespace Sys2Proof.Machine

open Sys2Proof

/-- The turn of the core (R100): the instruction at `pc` if a core step is enabled; otherwise the core does nothing,
which in a stall is for ever (R136). -/
def coreTurn (s : State) : Host.Outcome State Fault Refusal :=
  match s.fetch with
  | some i => exec i s
  | none => .next s

/-- One step (R7): the agent at the head of the schedule has the turn; when nothing is scheduled, the core has it. -/
def step (s : State) : Host.Outcome State Fault Refusal :=
  match s.inbox with
  | [] => coreTurn s
  | .core :: _ => coreTurn s.takeTurn
  | .reset :: _ => .next s.takeTurn.resetInput
  | .host op :: _ => hostOp op s.takeTurn

/-- `s` with the instruction of bits `w` where `step` fetches its next instruction, the run in progress (R100) and no
other agent's turn before the core's (notes/assumptions/7.md). -/
def State.withFetchWord (s : State) (nbits w : Nat) : State := s.placeFetchWord (BitVec.ofNat Config.wordBits (w % 2 ^ nbits))

end Sys2Proof.Machine
end

