-- ==== Sys2Proof/Safety.lean ====
section
/-! DEFINITION. What counts as a good state, a good program and a good host, in the terms the claims use: the invariant
of every step (spec/10_state.md R28; spec/44_hazard_detector.md R160, R165), the obligations of software
(spec/70_reset_and_hazards.md R193, R197, R199, R200), and the end of a run (spec/42_mesh_controller.md R140). -/

namespace Sys2Proof.Machine

open Sys2Proof

/-- R150: the emission address of the point `j` of the current run. -/
def CoreState.pointAddr (s : CoreState) (j : Nat) : Addr := s.runBase + BitVec.ofNat Config.addrBits (Config.emitStride * j)

/-- What every step keeps of the core. -/
structure CoreState.Inv (s : CoreState) : Prop where
  /-- R14: the program counter is a slot index or the stalled value. -/
  pc_le : s.pc ≤ Config.ucodeWords
  /-- R28 (b): while RUNNING the point index names a point of the mesh. -/
  idx_lt : s.fsm = .running → s.idx < s.total
  /-- A pass that has emitted has emitted to its own address (R165 (a)). -/
  emitted_written : s.fsm = .running → s.emitted = true → s.emitAddr ∈ s.written
  /-- R160: every address of the set is the address of an earlier point, or of the current one if it has emitted. -/
  written_points : s.fsm = .running → ∀ a ∈ s.written, ∃ j, a = s.pointAddr j ∧ (j < s.idx ∨ j = s.idx ∧ s.emitted = true)
  /-- R165 (a): every stray write is also a collision. -/
  stray_le : s.stray.toNat ≤ s.collisions.toNat
  /-- R28 (e): at most one collision per emission. -/
  collisions_le : s.collisions.toNat ≤ s.vertices.toNat
  /-- R165 (b): without the wrap modulo 2^32, every collision is also a stray write. -/
  collisions_eq : s.total ≤ 2 ^ 28 → s.collisions = s.stray
  /-- R26: the set of addresses is in its canonical form. -/
  written_rising : s.written.Pairwise (fun a b => a.toNat < b.toNat)

/-- What every step keeps. -/
structure State.Inv (s : State) : Prop extends CoreState.Inv s.toCoreState where
  /-- The external memory is in its canonical form. -/
  mem_wf : s.mem.wf

/-- The END flag of the instruction in slot `k`. -/
def CoreState.slotEnds (s : CoreState) (k : Nat) : Bool := (s.ucode[k]?.map fun w => (decode w).eop).getD false

/-- The EMIT flag of the instruction in slot `k`. -/
def CoreState.slotEmits (s : CoreState) (k : Nat) : Bool := (s.ucode[k]?.map fun w => (decode w).emit).getD false

/-- R193, R199: slot `last` is the first with the completion flag. -/
def CoreState.EndsAt (s : CoreState) (last : Nat) : Prop :=
  last < Config.ucodeWords ∧ s.slotEnds last = true ∧ ∀ k < last, s.slotEnds k = false

/-- The emissions of the instructions in slots 0 to `n - 1`. -/
def CoreState.emissionsBefore (s : CoreState) : Nat → Nat
  | 0 => 0
  | n + 1 => s.emissionsBefore n + (if s.slotEmits n then 1 else 0)

/-- R199, R200: a well-formed microprogram reaches a completion flag, emits at most once per pass, and keeps
`DEST <= 124` in the emitting instruction. -/
def CoreState.WellFormedProgram (s : CoreState) : Prop :=
  ∃ last, s.EndsAt last ∧ s.emissionsBefore (last + 1) ≤ 1 ∧
    ∀ k ≤ last, ∀ w, s.ucode[k]? = some w → (decode w).WellFormed

/-- A host operation that writes the register file or the microcode store (R42). -/
def HostOp.WritesStorage : HostOp → Prop
  | .read _ _ => False
  | .write _ off _ => (0x400 ≤ off ∧ off < 0x600) ∨ (0x800 ≤ off ∧ off < 0x1000)

/-- R43, R197: what the host may do. -/
def SoftwareMay (op : HostOp) (s : State) : Prop := op.WellFormed ∧ (s.busy = true → ¬ op.WritesStorage)

/-- R81, R82: the host operation begins a run: a write of a word with bit 0 set to CTL, accepted in this state. -/
def BeginsRun (op : HostOp) (s : State) : Prop :=
  ∃ v : Word, op = .write Config.wordBytes 0 v ∧ v.getLsbD 0 = true ∧ (s.busy = false ∨ s.policy.startWhileBusy = .restart)

/-- `n` steps, stopping at the first one that is not a next state. -/
def runSteps : Nat → State → Host.Outcome State Fault Refusal
  | 0, s => .next s
  | n + 1, s =>
    match step s with
    | .next t => runSteps n t
    | .fault r => .fault r
    | .refused r => .refused r

/-- R140: the run that `s₀` started has ended in `s`. -/
def RunEnded (s₀ s : CoreState) : Prop := s.fsm = .done ∧ s.busy = false ∧ s.irqCount = s₀.irqCount + 1

end Sys2Proof.Machine
end

