-- ==== Sys2Proof/Certificates/Slice0/Obligations.lean ====
section
/-! DEFINITION. The statements about the PFPU core, for the provers, and the predicates they are written in. The
predicates say in fields and bytes what the rules of spec/ say; they do not call the meanings they are about. -/

namespace Sys2Proof.Spec

open Sys2Proof Sys2Proof.Machine

/-! ## What an instruction may change (spec/41_decoder_alu.md R102 and the rules it cites) -/

/-- No instruction touches the microcode store, the configuration registers, the latched copies, the schedule or the
policies (R13, R18 to R20, R24). -/
def Untouched (s t : State) : Prop :=
  t.ucode = s.ucode ∧ t.dmaBase = s.dmaBase ∧ t.meshW = s.meshW ∧ t.meshH = s.meshH ∧
  t.runBase = s.runBase ∧ t.runW = s.runW ∧ t.runH = s.runH ∧ t.inbox = s.inbox ∧ t.policy = s.policy

/-- Address `a` is one of the 16 bytes an emission at `addr` stores to. -/
def InVector (addr : Addr) (a : Nat) : Prop := ∃ j < 16, a = byteAddr addr j

/-- The four bytes at `addr` hold the word `v` (R46). -/
def HoldsWord (order : ByteOrder) (m : Memory) (addr : Addr) (v : Word) : Prop :=
  ∀ j < 4, m.read (byteAddr addr j) = some (wordByte order v j)

/-- The port events of an emission, newest first (R151). The words are read from `t`, the state after the step: an
emission sees the register its own instruction has written (R117), and nothing writes a register after that. -/
def vectorEvents (d : RegIdx) (s t : State) : List PortEvent :=
  [.memWrite (emitWordAddr s.emitAddr 3) (t.reg (emitReg d 3)), .memWrite (emitWordAddr s.emitAddr 2) (t.reg (emitReg d 2)),
   .memWrite (emitWordAddr s.emitAddr 1) (t.reg (emitReg d 1)), .memWrite (emitWordAddr s.emitAddr 0) (t.reg (emitReg d 0))]

/-- R150 to R154, R161, R162: one emission with first register `d` between `s` and `t`. Every byte outside the 16 bytes
at `s.emitAddr` reads as before. Which bytes a word at an unaligned address stores to is the model's choice, through
`byteAddr` (notes/assumptions/6.md); with an aligned `run_base` no clause rests on it. -/
def Emits (d : RegIdx) (s t : State) : Prop :=
  t.vertices = sat32Succ s.vertices ∧
  t.collisions = (if s.emitAddr ∈ s.written then sat32Succ s.collisions else s.collisions) ∧
  t.stray = (if s.emitted = true then sat32Succ s.stray else s.stray) ∧
  (∀ a, a ∈ t.written ↔ a = s.emitAddr ∨ a ∈ s.written) ∧
  (∀ k < 4, HoldsWord s.policy.dmaByteOrder t.mem (emitWordAddr s.emitAddr k) (t.reg (emitReg d k))) ∧
  ∀ a, ¬ InVector s.emitAddr a → t.mem.read a = s.mem.read a

/-- No emission between `s` and `t`: no counter, no member of `written` and no byte of memory changes. -/
def EmitsNothing (s t : State) : Prop :=
  t.vertices = s.vertices ∧ t.collisions = s.collisions ∧ t.stray = s.stray ∧ t.written = s.written ∧
  ∀ a, t.mem.read a = s.mem.read a

/-- R134, R135: the end of a pass between `s` and `t`; `e` is the bit `emitted` as phase 2 left it. -/
def EndsPass (e : Bool) (s t : State) : Prop :=
  t.idx = s.idx + 1 ∧
  (s.idx + 1 = s.total → t.fsm = .done ∧ t.irqCount = s.irqCount + 1 ∧ t.pc = s.pc ∧ t.emitted = e) ∧
  (s.idx + 1 ≠ s.total → t.fsm = s.fsm ∧ t.irqCount = s.irqCount ∧ t.pc = 0 ∧ t.emitted = false)

/-- R116: sequential flow between `s` and `t`. -/
def FlowsOn (e : Bool) (s t : State) : Prop :=
  t.idx = s.idx ∧ t.fsm = s.fsm ∧ t.irqCount = s.irqCount ∧ t.pc = s.pc + 1 ∧ t.emitted = e

/-- Everything a core step does but for the register file and the free values: phases 2 and 3 of R102, their effects on
the ports in order (R174: the pulse after the writes), and the frame. -/
def Retired (eop emit : Bool) (d : RegIdx) (s t : State) : Prop :=
  Untouched s t ∧
  (emit = true → Emits d s t) ∧ (emit = false → EmitsNothing s t) ∧
  (eop = true → EndsPass (emit || s.emitted) s t) ∧ (eop = false → FlowsOn (emit || s.emitted) s t) ∧
  t.port = (if eop = true ∧ s.idx + 1 = s.total then [.irqPulse] else []) ++
    (if emit = true then vectorEvents d s t else []) ++ s.port

/-- Every register but `d` is unchanged. -/
def OnlyReg (d : RegIdx) (s t : State) : Prop := ∀ r, r ≠ d → t.reg r = s.reg r

/-! ## IEEE 754 binary32 (spec/41_decoder_alu.md R112, R113) -/

/-- The datum is a number: exponent bits not all ones. -/
def IsFinite (w : Word) : Prop := w.extractLsb' 23 8 ≠ 255

/-- The datum is an infinity. -/
def IsInf (w : Word) : Prop := w.extractLsb' 23 8 = 255 ∧ w.extractLsb' 0 23 = 0

/-- The number a finite datum stands for, times 2^149, which makes it an integer. -/
def scaled (w : Word) : Int :=
  let e := (w.extractLsb' 23 8).toNat
  let f := (w.extractLsb' 0 23).toNat
  let m : Int := if e = 0 then f else (2 ^ 23 + f) * 2 ^ (e - 1)
  if w.getLsbD 31 then -m else m

/-- `r` is the binary32 number nearest `q × 2^-298`, ties to even. -/
def Nearest (q : Int) (r : Word) : Prop :=
  IsFinite r ∧ ∀ w, IsFinite w →
    |scaled r * 2 ^ 149 - q| ≤ |scaled w * 2 ^ 149 - q| ∧
    (|scaled r * 2 ^ 149 - q| = |scaled w * 2 ^ 149 - q| → scaled w ≠ scaled r → r.getLsbD 0 = false)

/-- The least magnitude that rounds past the largest finite number, in units of 2^-298: that number and half its quantum. -/
def overflowBound : Int := (2 ^ 25 - 1) * 2 ^ 252 * 2 ^ 149

/-- `r` is `q × 2^-298` correctly rounded, with sign bit `neg`. -/
def CorrectlyRounded (neg : Bool) (q : Int) (r : Word) : Prop :=
  r.getLsbD 31 = neg ∧ (|q| < overflowBound → Nearest q r) ∧ (overflowBound ≤ |q| → IsInf r)

/-- The IEEE 754 sum of two data whose second has sign bit `sy` and scaled value `vy`. The sign of an exact zero is
negative only where both signs are. -/
def IsSum (x y : Word) (sy : Bool) (vy : Int) (res : Word) : Prop :=
  (IsNaNWord x ∨ IsNaNWord y ∨ (IsInf x ∧ IsInf y ∧ x.getLsbD 31 ≠ sy) → IsNaNWord res) ∧
  (IsInf x ∧ (IsFinite y ∨ (IsInf y ∧ x.getLsbD 31 = sy)) → res = x) ∧
  (IsFinite x ∧ IsInf y → IsInf res ∧ res.getLsbD 31 = sy) ∧
  (IsFinite x ∧ IsFinite y →
    CorrectlyRounded (if scaled x + vy = 0 then x.getLsbD 31 && sy else decide (scaled x + vy < 0))
      ((scaled x + vy) * 2 ^ 149) res)

/-- The IEEE 754 product of two data. -/
def IsProduct (x y : Word) (res : Word) : Prop :=
  (IsNaNWord x ∨ IsNaNWord y ∨ (IsInf x ∧ IsFinite y ∧ scaled y = 0) ∨ (IsFinite x ∧ scaled x = 0 ∧ IsInf y) →
    IsNaNWord res) ∧
  ((IsInf x ∧ (IsInf y ∨ (IsFinite y ∧ scaled y ≠ 0))) ∨ (IsFinite x ∧ scaled x ≠ 0 ∧ IsInf y) →
    IsInf res ∧ res.getLsbD 31 = (x.getLsbD 31 ^^ y.getLsbD 31)) ∧
  (IsFinite x ∧ IsFinite y → CorrectlyRounded (x.getLsbD 31 ^^ y.getLsbD 31) (scaled x * scaled y) res)

/-! ## Steps -/

/-- The core has the turn: nothing is scheduled, or a turn of the core is next (R7). -/
def CoreHasTurn (s : State) : Prop := s.inbox = [] ∨ ∃ rest, s.inbox = .core :: rest

/-- A run begins in the next step (R81, R82). -/
def StartNext (s : State) : Prop := ∃ op rest, s.inbox = .host op :: rest ∧ BeginsRun op s

/-- Reset arrives in the next step (R190). -/
def ResetNext (s : State) : Prop := ∃ rest, s.inbox = .reset :: rest

/-- The step from `s` to `t` is the DONE transition (R135). -/
def Finishes (s t : State) : Prop := s.fsm = .running ∧ t.fsm = .done

/-- The pulses the interrupt output has shown. -/
def pulses (s : State) : Nat := s.port.count .irqPulse

/-- An outcome with its next state changed. -/
def mapNext (f : State → State) : Host.Outcome State Fault Refusal → Host.Outcome State Fault Refusal
  | .next t => .next (f t)
  | .fault r => .fault r
  | .refused r => .refused r

/-- The state with another MESH_ORDER. -/
def withMeshOrder (o : MeshOrder) (s : State) : State := { s with policy := { s.policy with meshOrder := o } }

/-- The state with other values in the three configuration registers. -/
def withConfig (b : Addr) (w h : MeshField) (s : State) : State := { s with dmaBase := b, meshW := w, meshH := h }

end Sys2Proof.Spec

open Sys2Proof Sys2Proof.Machine Sys2Proof.Spec

/-! ## Encoding (spec/30_encoding.md) -/

/-- Decode of encode is the instruction, for every instruction with every operand at every value (R61, R63, R64, R67). -/
def Obligations.DecodeInvertsEncode : Prop := ∀ i : Instr, decode (encode i) = i

/-- Encoding a decoded word gives the word back with the reserved bits 29:25 cleared (R61, R65). -/
def Obligations.EncodeOfDecodeClearsReservedBits : Prop := ∀ w : Word, encode (decode w) = w &&& 0xC1FFFFFF

/-- Two words decode to the same instruction exactly when they agree outside the reserved bits (R65, R67). -/
def Obligations.SameInstructionIffEqualOutsideReservedBits : Prop :=
  ∀ w w' : Word, decode w = decode w' ↔ w &&& 0xC1FFFFFF = w' &&& 0xC1FFFFFF

/-- R67: the fields of the decoded instruction are the bit fields of the word; the opcode names the constructor (R63). -/
def Obligations.DecodedFieldsAreTheBitFields : Prop :=
  ∀ w : Word, (decode w).eop = w.getLsbD 31 ∧ (decode w).emit = w.getLsbD 30 ∧
    (decode w).srcA = w.extractLsb' 18 7 ∧ (decode w).srcB = w.extractLsb' 11 7 ∧
    (decode w).opcode = w.extractLsb' 7 4 ∧ (decode w).dest = w.extractLsb' 0 7

/-- Words written out from the encoding examples of spec/30_encoding.md section 6 and the vectors E-1, E-6, E-8, E-12 of
spec/95_test_vectors.md decode to the instructions they stand for; the all-zero word is NOP (R66). -/
def Obligations.SampleWordsDecode : Prop :=
  decode 0x00000000 = .nop false false 0 0 0 ∧ decode 0xC0000003 = .nop true true 0 0 3 ∧
  decode 0x000C2083 = .fadd false false 3 4 3 ∧ decode 0x0020490B = .fsub false false 8 9 11 ∧
  decode 0x0020498A = .fmul false false 8 9 10 ∧ decode 0x00204B13 = .i2f false false 8 9 19 ∧
  decode 0x000C0605 = .copy false false 3 0 5 ∧ decode 0x00000200 = .undef4 false false 0 0 0 ∧
  decode 0xFFFFFFFF = .undef15 true true 127 127 127

/-! ## Steps (spec/00_scope.md R7; spec/41_decoder_alu.md R100, R101) -/

/-- An enabled core step runs the instruction the word at `pc` decodes to, on the state itself when nothing is
scheduled, and on the state with its turn taken off the schedule when a turn of the core is next (R100, R101). Nothing
else is added around `exec`: the instruction itself moves `pc`. -/
def Obligations.StepRunsTheDecodedInstruction : Prop :=
  ∀ (s : State) (h : s.pc < Config.ucodeWords), s.fsm = .running →
    (s.inbox = [] → step s = exec (decode s.ucode[s.pc]) s) ∧
    (∀ rest, s.inbox = .core :: rest → step s = exec (decode s.ucode[s.pc]) { s with inbox := rest })

/-- R100: when the core has the turn and is not RUNNING, or is RUNNING with the store exhausted, it does nothing. -/
def Obligations.CoreDoesNothingUnlessEnabled : Prop :=
  ∀ s : State, CoreHasTurn s → (s.fsm ≠ .running ∨ Config.ucodeWords ≤ s.pc) →
    step s = .next { s with inbox := s.inbox.tail }

/-- R7: a scheduled host operation or reset acts on the state with its turn taken off the schedule. -/
def Obligations.ScheduledAgentActs : Prop :=
  ∀ (s : State) (rest : List Stimulus),
    (∀ op, s.inbox = .host op :: rest → step s = hostOp op { s with inbox := rest }) ∧
    (s.inbox = .reset :: rest → step s = .next (State.resetInput { s with inbox := rest }))

/-- R170: every instruction completes in every state: it is neither refused nor faults, whatever its operands. -/
def Obligations.EveryInstructionCompletes : Prop := ∀ (i : Instr) (s : State), ∃ t, exec i s = .next t

/-! ## The instructions (spec/41_decoder_alu.md) -/

/-- R103: NOP completes; no register changes; only its flags act. Which bytes of memory an emission at an unaligned
`run_base` stores to is the model's choice (notes/assumptions/6.md). -/
def Obligations.NopActsOnlyThroughItsFlags : Prop :=
  ∀ (eop emit : Bool) (a b d : RegIdx) (s : State), ∃ t, exec (.nop eop emit a b d) s = .next t ∧
    t.x = s.x ∧ t.draws = s.draws ∧ Retired eop emit d s t

/-- R109: each of the ten undefined opcodes completes exactly as NOP does. Which bytes of memory an emission at an unaligned
`run_base` stores to is the model's choice (notes/assumptions/6.md). -/
def Obligations.UndefinedOpcodesActAsNop : Prop :=
  ∀ (eop emit : Bool) (a b d : RegIdx) (s : State) (i : Instr),
    i ∈ [.undef4 eop emit a b d, .undef5 eop emit a b d, .undef7 eop emit a b d, .undef8 eop emit a b d,
      .undef9 eop emit a b d, .undef10 eop emit a b d, .undef11 eop emit a b d, .undef13 eop emit a b d,
      .undef14 eop emit a b d, .undef15 eop emit a b d] →
    ∃ t, exec i s = .next t ∧ t.x = s.x ∧ t.draws = s.draws ∧ Retired eop emit d s t

/-- R104: FADD completes with `f32_add` of the old sources in the destination, no other register changed.
Which NaN a NaN result is, and which bytes of memory an emission at an unaligned `run_base` stores to, is the model's
choice (notes/assumptions/26.md and 6.md). -/
def Obligations.FaddWritesTheSum : Prop :=
  ∀ (eop emit : Bool) (a b d : RegIdx) (s : State), ∃ t, exec (.fadd eop emit a b d) s = .next t ∧
    t.reg d = f32Add (s.reg a) (s.reg b) ∧ t.draws = s.draws ∧ OnlyReg d s t ∧ Retired eop emit d s t

/-- R105: FSUB completes with `f32_sub` of the old sources, A minus B, in the destination, no other register changed.
Which NaN a NaN result is, and which bytes of memory an emission at an unaligned `run_base` stores to, is the model's
choice (notes/assumptions/26.md and 6.md). -/
def Obligations.FsubWritesTheDifference : Prop :=
  ∀ (eop emit : Bool) (a b d : RegIdx) (s : State), ∃ t, exec (.fsub eop emit a b d) s = .next t ∧
    t.reg d = f32Sub (s.reg a) (s.reg b) ∧ t.draws = s.draws ∧ OnlyReg d s t ∧ Retired eop emit d s t

/-- R106: FMUL completes with `f32_mul` of the old sources in the destination, no other register changed.
Which NaN a NaN result is, and which bytes of memory an emission at an unaligned `run_base` stores to, is the model's
choice (notes/assumptions/26.md and 6.md). -/
def Obligations.FmulWritesTheProduct : Prop :=
  ∀ (eop emit : Bool) (a b d : RegIdx) (s : State), ∃ t, exec (.fmul eop emit a b d) s = .next t ∧
    t.reg d = f32Mul (s.reg a) (s.reg b) ∧ t.draws = s.draws ∧ OnlyReg d s t ∧ Retired eop emit d s t

/-- R107: I2F completes with `i32_to_f32` of the old source in the destination, SRCB ignored, no other register
changed. Which bytes of memory an emission at an unaligned
`run_base` stores to is the model's choice (notes/assumptions/6.md). -/
def Obligations.I2fWritesTheConversion : Prop :=
  ∀ (eop emit : Bool) (a b d : RegIdx) (s : State), ∃ t, exec (.i2f eop emit a b d) s = .next t ∧
    t.reg d = i32ToF32 (s.reg a) ∧ t.draws = s.draws ∧ OnlyReg d s t ∧ Retired eop emit d s t

/-- R108: COPY completes with the 32 bits of the source in the destination, SRCB ignored, no other register changed.
Which bytes of memory an emission at an unaligned `run_base` stores to
is the model's choice (notes/assumptions/6.md). -/
def Obligations.CopyMovesTheWord : Prop :=
  ∀ (eop emit : Bool) (a b d : RegIdx) (s : State), ∃ t, exec (.copy eop emit a b d) s = .next t ∧
    t.reg d = s.reg a ∧ t.draws = s.draws ∧ OnlyReg d s t ∧ Retired eop emit d s t

/-! ## Numerics (spec/41_decoder_alu.md R104 to R107, R112, R113) -/

/-- R104, R112, R113: `f32_add` is the correctly rounded binary32 sum, with the infinities, signed zeros and NaNs of
IEEE 754. -/
def Obligations.AdditionIsIeeeBinary32 : Prop :=
  ∀ x y : Word, IsSum x y (y.getLsbD 31) (scaled y) (f32Add x y)

/-- R105, R112, R113: `f32_sub` is the sum of the first source and the second with its sign flipped. -/
def Obligations.SubtractionIsIeeeBinary32 : Prop :=
  ∀ x y : Word, IsSum x y (!y.getLsbD 31) (-scaled y) (f32Sub x y)

/-- R106, R112, R113: `f32_mul` is the correctly rounded binary32 product. -/
def Obligations.MultiplicationIsIeeeBinary32 : Prop := ∀ x y : Word, IsProduct x y (f32Mul x y)

/-- R107: `i32_to_f32` is the binary32 number nearest the signed integer, ties to even, exact up to 2^24, +0 for 0, and
never a NaN, an infinity or a subnormal. -/
def Obligations.ConversionIsNearestSigned : Prop :=
  ∀ x : Word, Nearest (x.toInt * 2 ^ 149 * 2 ^ 149) (i32ToF32 x) ∧ (i32ToF32 x).getLsbD 31 = decide (x.toInt < 0) ∧
    (|x.toInt| ≤ 2 ^ 24 → scaled (i32ToF32 x) = x.toInt * 2 ^ 149) ∧
    (x = 0 → i32ToF32 x = 0) ∧ (x ≠ 0 → (i32ToF32 x).extractLsb' 23 8 ≠ 0)

/-- R112: when the exact result of an addition, subtraction or multiplication is a binary32 number, it is the result. -/
def Obligations.RepresentableResultsAreExact : Prop :=
  ∀ x y w : Word, IsFinite x → IsFinite y → IsFinite w →
    (scaled w = scaled x + scaled y → IsFinite (f32Add x y) ∧ scaled (f32Add x y) = scaled w) ∧
    (scaled w = scaled x - scaled y → IsFinite (f32Sub x y) ∧ scaled (f32Sub x y) = scaled w) ∧
    (scaled w * 2 ^ 149 = scaled x * scaled y → IsFinite (f32Mul x y) ∧ scaled (f32Mul x y) = scaled w)

/-- R113: the free value of a NaN result ranges over the NaN encodings and over all of them; which one it is, the model
takes as a function of the operation and its operand words (R6, notes/assumptions/26.md). -/
def Obligations.FreeNanRangesOverNanWords : Prop :=
  ∀ w : Word, IsNaNWord (nanOf w) ∧ (IsNaNWord w → nanOf w = w)

/-! ## Emissions (spec/43_dma_output.md, spec/44_hazard_detector.md) -/

/-- R150: the emission address is `(run_base + 16 × idx) mod 2^32`. -/
def Obligations.EmissionAddressIsBasePlusSixteenTimesIndex : Prop :=
  ∀ s : State, s.emitAddr.toNat = (s.runBase.toNat + 16 * s.idx) % 2 ^ 32

/-- R153: the registers of an emission are taken modulo 128. -/
def Obligations.EmissionRegistersWrapModulo128 : Prop :=
  ∀ (d : RegIdx) (k : Nat), (emitReg d k).toNat = (d.toNat + k) % 128

/-- R46, R47: a word written at `addr` occupies the bytes `addr` to `addr + 3`, the most significant byte at `addr` when
the order is BIG and the least significant byte at `addr` when it is LITTLE; every other byte of memory is as before.
That addresses past the top of the space wrap is the model's choice (notes/assumptions/6.md). -/
def Obligations.DmaWordOccupiesItsFourBytes : Prop :=
  ∀ (order : ByteOrder) (m : Memory) (addr : Addr) (v : Word),
    (order = .big → ∀ j < 4, (m.writeWord order addr v).read (byteAddr addr j) = some (v.extractLsb' (24 - 8 * j) 8)) ∧
    (order = .little → ∀ j < 4, (m.writeWord order addr v).read (byteAddr addr j) = some (v.extractLsb' (8 * j) 8)) ∧
    ∀ a, (∀ j < 4, a ≠ byteAddr addr j) → (m.writeWord order addr v).read a = m.read a

/-- R160: the 16-byte targets of two points of a run either coincide or are disjoint, and they coincide exactly when the
point indices agree modulo 2^28. -/
def Obligations.EmissionTargetsCoincideOrAreDisjoint : Prop :=
  ∀ (s : CoreState) (i j : Nat),
    (s.pointAddr i = s.pointAddr j ↔ i % 2 ^ 28 = j % 2 ^ 28) ∧
    (s.pointAddr i ≠ s.pointAddr j → ∀ a, ¬ (InVector (s.pointAddr i) a ∧ InVector (s.pointAddr j) a))

/-- R164: a counter of the core is left alone, counts one up and saturates, or is cleared by the start action or reset;
nothing else happens to it in any step. -/
def Obligations.CountersSaturateAndClearOnlyAtStartOrReset : Prop :=
  (∀ c : Counter, (sat32Succ c).toNat = if c.toNat < 0xFFFFFFFF then c.toNat + 1 else 0xFFFFFFFF) ∧
  ∀ s t : State, step s = .next t → ∀ c ∈ [CoreState.vertices, CoreState.collisions, CoreState.stray],
    c t.toCoreState = c s.toCoreState ∨ c t.toCoreState = sat32Succ (c s.toCoreState) ∨
    (c t.toCoreState = 0 ∧ (StartNext s ∨ ResetNext s))

/-! ## The mesh controller (spec/42_mesh_controller.md) -/

/-- R25, R137: the coordinates of a point lie in the mesh, and the point index is recovered from them in the order of
the policy. -/
def Obligations.PointIndexEnumeratesTheMesh : Prop :=
  ∀ s : State, s.idx < s.total →
    s.point.1 ≤ s.runW.toNat ∧ s.point.2 ≤ s.runH.toNat ∧
    (s.policy.meshOrder = .rowMajor → s.idx = s.point.2 * (s.runW.toNat + 1) + s.point.1) ∧
    (s.policy.meshOrder = .columnMajor → s.idx = s.point.1 * (s.runH.toNat + 1) + s.point.2)

/-- R130: the transitions of the controller and no others. -/
def Obligations.ControllerTransitions : Prop :=
  ∀ s t : State, step s = .next t → t.fsm ≠ s.fsm →
    (s.fsm ≠ .running ∧ t.fsm = .running ∧ StartNext s) ∨
    (s.fsm = .running ∧ t.fsm = .done ∧ CoreHasTurn s ∧ s.slotEnds s.pc = true ∧ s.idx + 1 = s.total) ∨
    (t.fsm = .idle ∧ ResetNext s)

/-- R173, R174: a pulse is sent exactly in the step of the DONE transition, as its last event on the ports; the ghost
count follows it and is cleared by reset alone. -/
def Obligations.PulseExactlyAtDone : Prop :=
  ∀ s t : State, step s = .next t →
    (Finishes s t → pulses t = pulses s + 1 ∧ t.port.head? = some .irqPulse ∧ t.irqCount = s.irqCount + 1) ∧
    (¬ Finishes s t → pulses t = pulses s) ∧
    (¬ Finishes s t → ¬ ResetNext s → t.irqCount = s.irqCount)

/-- R24, R195: the run copies of the configuration change only at an accepted start, which copies the programmed fields,
and at reset. -/
def Obligations.RunCopiesChangeOnlyAtStartOrReset : Prop :=
  ∀ s t : State, step s = .next t →
    (t.runBase = s.runBase ∧ t.runW = s.runW ∧ t.runH = s.runH) ∨
    (StartNext s ∧ t.runBase = s.dmaBase ∧ t.runW = s.meshW ∧ t.runH = s.meshH) ∨
    (ResetNext s ∧ t.runBase = 0 ∧ t.runW = 0 ∧ t.runH = 0)

/-- R13, R52: the microcode store changes only by a host write to MICROCODE while `busy = 0`, which changes one slot,
and by reset. -/
def Obligations.StoreChangesOnlyByHostWriteOrReset : Prop :=
  ∀ s t : State, step s = .next t →
    t.ucode = s.ucode ∨
    (∃ (k : Fin Config.ucodeWords) (v : Word) (rest : List Stimulus),
      s.inbox = .host (.write 4 (0x800 + 4 * k.val) v) :: rest ∧ s.busy = false ∧
      t.ucode = s.ucode.set k.val v k.isLt) ∨
    ResetNext s

/-- R11, R12: a register changes only as the destination of one of the five writing operations of the instruction at
`pc`, by a host write to REGFILE while `busy = 0`, and by reset. -/
def Obligations.RegistersChangeOnlyByTheirWriters : Prop :=
  ∀ (s t : State) (r : RegIdx), step s = .next t → t.reg r ≠ s.reg r →
    (CoreHasTurn s ∧ ∃ i, s.fetch = some i ∧ i.dest = r ∧ i.opcode ∈ [1, 2, 3, 6, 12]) ∨
    (∃ (v : Word) (rest : List Stimulus), s.inbox = .host (.write 4 (0x400 + 4 * r.toNat) v) :: rest ∧
      s.busy = false ∧ t.reg r = v) ∨
    ResetNext s

/-- R5, R46: no step changes a policy; the byte order cannot be switched at run time. -/
def Obligations.PoliciesAreFixed : Prop := ∀ s t : State, step s = .next t → t.policy = s.policy

/-- R137: no step depends on MESH_ORDER. -/
def Obligations.MeshOrderIsUnobservable : Prop :=
  ∀ (o : MeshOrder) (s : State), step (withMeshOrder o s) = mapNext (withMeshOrder o) (step s)

/-- R195: what an instruction does to the machine does not depend on the three configuration registers. -/
def Obligations.ConfigurationDoesNotReachTheRun : Prop :=
  ∀ (b : Addr) (w h : MeshField) (i : Instr) (s : State), exec i (withConfig b w h s) = mapNext (withConfig b w h) (exec i s)

/-- R7, R197: what an instruction of a run does to the core and to the memory does not depend on whether a host operation
that software may perform, and that begins no run, falls before it: the registers, the store, the sequencing, the counters,
the address set, the run's copies, the pulses and the memory after it are the same. -/
def Obligations.HostOperationsDoNotReachTheRun : Prop :=
  ∀ (i : Instr) (op : HostOp) (s u t t' : State), s.busy = true → SoftwareMay op s → ¬ BeginsRun op s →
    hostOp op s = .next u → exec i s = .next t → exec i u = .next t' →
    t'.x = t.x ∧ t'.ucode = t.ucode ∧ t'.pc = t.pc ∧ t'.fsm = t.fsm ∧ t'.emitted = t.emitted ∧ t'.idx = t.idx ∧
    t'.vertices = t.vertices ∧ t'.collisions = t.collisions ∧ t'.stray = t.stray ∧ t'.written = t.written ∧
    t'.runBase = t.runBase ∧ t'.runW = t.runW ∧ t'.runH = t.runH ∧ t'.irqCount = t.irqCount ∧ t'.mem = t.mem

/-! ## Host operations (spec/40_control_status.md) -/

/-- R81: an accepted start writes the eleven fields and nothing else; the run has at least one point. -/
def Obligations.AcceptedStartBeginsARun : Prop :=
  ∀ (s : State) (v : Word), v.getLsbD 0 = true → s.busy = false →
    ∃ t, hostOp (.write 4 0x00 v) s = .next t ∧
      t.runBase = s.dmaBase ∧ t.runW = s.meshW ∧ t.runH = s.meshH ∧
      t.vertices = 0 ∧ t.collisions = 0 ∧ t.stray = 0 ∧ t.written = [] ∧ t.emitted = false ∧
      t.idx = 0 ∧ t.pc = 0 ∧ t.fsm = .running ∧ t.busy = true ∧ 1 ≤ t.total ∧
      t.x = s.x ∧ t.ucode = s.ucode ∧ t.dmaBase = s.dmaBase ∧ t.meshW = s.meshW ∧ t.meshH = s.meshH ∧
      t.irqCount = s.irqCount ∧ t.mem = s.mem ∧ t.port = s.port ∧ t.inbox = s.inbox ∧ t.policy = s.policy ∧
      t.draws = s.draws

/-- R82: a start write while `busy = 1` changes nothing under IGNORE; under RESTART it does what an accepted start does,
and the memory and the pulses of the run it abandons stay as they are. -/
def Obligations.StartWhileBusyFollowsThePolicy : Prop :=
  ∀ (s : State) (v : Word), v.getLsbD 0 = true → s.busy = true →
    (s.policy.startWhileBusy = .ignore → hostOp (.write 4 0x00 v) s = .next s) ∧
    (s.policy.startWhileBusy = .restart → ∃ t, hostOp (.write 4 0x00 v) s = .next t ∧
      t.runBase = s.dmaBase ∧ t.runW = s.meshW ∧ t.runH = s.meshH ∧
      t.vertices = 0 ∧ t.collisions = 0 ∧ t.stray = 0 ∧ t.written = [] ∧ t.emitted = false ∧
      t.idx = 0 ∧ t.pc = 0 ∧ t.fsm = .running ∧
      t.x = s.x ∧ t.ucode = s.ucode ∧ t.dmaBase = s.dmaBase ∧ t.meshW = s.meshW ∧ t.meshH = s.meshH ∧
      t.irqCount = s.irqCount ∧ t.mem = s.mem ∧ t.port = s.port ∧ t.inbox = s.inbox ∧ t.policy = s.policy ∧
      t.draws = s.draws)

/-- R83: a write of a word with bit 0 clear to CTL changes no state, in any state. -/
def Obligations.WritingZeroToCtlDoesNothing : Prop :=
  ∀ (s : State) (v : Word), v.getLsbD 0 = false → hostOp (.write 4 0x00 v) s = .next s

/-- R84: a read of CTL returns 1 while RUNNING, stalled or not, and 0 in IDLE and in DONE, and changes nothing else. -/
def Obligations.CtlReadsBusy : Prop :=
  ∀ s : State, hostOp (.read 4 0x00) s =
    .next { s with port := .readData 0x00 (if s.fsm = .running then 1 else 0) :: s.port }

/-- R85 to R87: the configuration writes keep all 32 bits in every state, leave the run in progress alone, and are what
an accepted start right after them latches (R24, R81). -/
def Obligations.ConfigurationWritesReachTheNextRun : Prop :=
  ∀ (s : State) (v : Word),
    hostOp (.write 4 0x04 v) s = .next { s with dmaBase := v } ∧
    hostOp (.write 4 0x08 v) s = .next { s with meshW := v } ∧
    hostOp (.write 4 0x0C v) s = .next { s with meshH := v } ∧
    ∀ start : Word, start.getLsbD 0 = true → s.busy = false →
      (∃ t, hostOp (.write 4 0x00 start) { s with dmaBase := v } = .next t ∧ t.runBase = v) ∧
      (∃ t, hostOp (.write 4 0x00 start) { s with meshW := v } = .next t ∧ t.runW = v) ∧
      (∃ t, hostOp (.write 4 0x00 start) { s with meshH := v } = .next t ∧ t.runH = v)

/-- R88, R94, R44, R96: a read of a write-only register, of a slot of the store or of an unmapped offset returns the
next free value and changes nothing but the count of free values. That the free values are numbered by a counter of the
state is the model's choice (notes/assumptions/2.md). -/
def Obligations.WriteOnlyReadsReturnFreeValues : Prop :=
  ∀ (s : State) (off : Nat), off % 4 = 0 →
    (off = 0x04 ∨ off = 0x08 ∨ off = 0x0C ∨ (0x800 ≤ off ∧ off < 0x1000) ∨
      off = 0x10 ∨ (0x20 ≤ off ∧ off < 0x400) ∨ (0x600 ≤ off ∧ off < 0x800)) →
    hostOp (.read 4 off) s =
      .next { s with port := .readData off (Config.draw s.draws) :: s.port, draws := s.draws + 1 }

/-- R44, R96: a write to an unmapped offset changes no state. -/
def Obligations.UnmappedWritesDoNothing : Prop :=
  ∀ (s : State) (off : Nat) (v : Word), off % 4 = 0 →
    (off = 0x10 ∨ (0x20 ≤ off ∧ off < 0x400) ∨ (0x600 ≤ off ∧ off < 0x800)) →
    hostOp (.write 4 off v) s = .next s

/-- R89: the three counters read as they stand, in every state, with no side effect. -/
def Obligations.CountersReadAsTheyStand : Prop :=
  ∀ s : State,
    hostOp (.read 4 0x14) s = .next { s with port := .readData 0x14 s.vertices :: s.port } ∧
    hostOp (.read 4 0x18) s = .next { s with port := .readData 0x18 s.collisions :: s.port } ∧
    hostOp (.read 4 0x1C) s = .next { s with port := .readData 0x1C s.stray :: s.port }

/-- R90: a write to a counter changes no state. -/
def Obligations.CounterWritesDoNothing : Prop :=
  ∀ (s : State) (v : Word),
    hostOp (.write 4 0x14 v) s = .next s ∧ hostOp (.write 4 0x18 v) s = .next s ∧ hostOp (.write 4 0x1C v) s = .next s

/-- R91, R92: every register reads through REGFILE in every state with no side effect, and while `busy = 0` a write
puts the word there, all 32 bits, and changes nothing else. -/
def Obligations.RegfileWindowReadsAndWrites : Prop :=
  ∀ (s : State) (n : RegIdx),
    hostOp (.read 4 (0x400 + 4 * n.toNat)) s =
      .next { s with port := .readData (0x400 + 4 * n.toNat) (s.reg n) :: s.port } ∧
    ∀ v : Word, s.busy = false →
      ∃ t, hostOp (.write 4 (0x400 + 4 * n.toNat) v) s = .next t ∧ t.reg n = v ∧ OnlyReg n s t ∧ { t with x := s.x } = s

/-- R93: while `busy = 0` a write to a MICROCODE offset stores the word in its slot, all 32 bits, unchecked, and changes
nothing else. -/
def Obligations.MicrocodeWindowWrites : Prop :=
  ∀ (s : State) (k : Fin Config.ucodeWords) (v : Word), s.busy = false →
    hostOp (.write 4 (0x800 + 4 * k.val) v) s = .next { s with ucode := s.ucode.set k.val v k.isLt }

/-- R43, R44, R95, R197: a host operation is refused exactly when software may not do it, by the name of the first check
it fails; every other one completes. The order of the checks, and a refusal by name of an offset past the window, are the
model's choice (notes/assumptions/10.md); the refusal during a run is R95's (notes/assumptions/11.md). -/
def Obligations.HostOperationsRefusedExactly : Prop :=
  ∀ (op : HostOp) (s : State),
    (SoftwareMay op s → ∃ t, hostOp op s = .next t) ∧
    (¬ op.WordWide → hostOp op s = .refused (.hostAccessWidth op.width)) ∧
    (op.WordWide → ¬ op.Aligned → hostOp op s = .refused (.hostAccessMisaligned op.offset)) ∧
    (op.WordWide → op.Aligned → ¬ op.InWindow → hostOp op s = .refused (.hostOffsetOutsideWindow op.offset)) ∧
    (op.WellFormed → s.busy = true → op.WritesStorage → hostOp op s = .refused (.hostWriteDuringRun op.offset))

/-- R45: no host read changes the state of the core, the memory, the schedule or the policies. -/
def Obligations.HostReadsHaveNoSideEffect : Prop :=
  ∀ (s t : State) (width off : Nat), hostOp (.read width off) s = .next t →
    t.toCoreState = s.toCoreState ∧ t.mem = s.mem ∧ t.inbox = s.inbox ∧ t.policy = s.policy ∧
    ∃ v, t.port = .readData off v :: s.port

/-! ## Reset (spec/70_reset_and_hazards.md; spec/10_state.md R29) -/

/-- R190, R29: reset in any state, a run or a stall in progress included, puts every field of the core at its reset
value, keeps the memory and sends no pulse; the registers and the slots hold free values. -/
def Obligations.ResetClearsTheControlState : Prop :=
  ∀ (s : State) (rest : List Stimulus), s.inbox = .reset :: rest →
    ∃ t, step s = .next t ∧ t.fsm = .idle ∧ t.busy = false ∧ t.pc = 0 ∧ t.idx = 0 ∧ t.emitted = false ∧ t.written = [] ∧
      t.vertices = 0 ∧ t.collisions = 0 ∧ t.stray = 0 ∧ t.dmaBase = 0 ∧ t.meshW = 0 ∧ t.meshH = 0 ∧
      t.runBase = 0 ∧ t.runW = 0 ∧ t.runH = 0 ∧ t.irqCount = 0 ∧
      (∀ i : RegIdx, t.reg i = Config.draw (s.draws + i.toNat)) ∧
      (∀ (k : Nat) (h : k < 512), t.ucode[k] = Config.draw (s.draws + 128 + k)) ∧
      t.mem = s.mem ∧ t.port = s.port ∧ t.inbox = rest ∧ t.policy = s.policy

/-- R29: the state after reset, for the fields R29 gives a value; the start write policy and the mesh order are the
defaults of R5. Nothing is said of the registers and the slots, whose zeros are the model's choice
(notes/assumptions/1.md). -/
def Obligations.ResetStateIsAsTabled : Prop :=
  State.reset.fsm = .idle ∧ State.reset.busy = false ∧ State.reset.pc = 0 ∧ State.reset.idx = 0 ∧
  State.reset.emitted = false ∧ State.reset.written = [] ∧ State.reset.vertices = 0 ∧ State.reset.collisions = 0 ∧
  State.reset.stray = 0 ∧ State.reset.dmaBase = 0 ∧ State.reset.meshW = 0 ∧ State.reset.meshH = 0 ∧
  State.reset.runBase = 0 ∧ State.reset.runW = 0 ∧ State.reset.runH = 0 ∧ State.reset.irqCount = 0 ∧
  State.reset.port = [] ∧ State.reset.policy.startWhileBusy = .ignore ∧ State.reset.policy.meshOrder = .rowMajor

/-! ## Invariants and runs -/

/-- R28, R160, R165: the invariant of the core is kept by every step, from every state that has it. -/
def Obligations.StepKeepsTheInvariant : Prop := ∀ s t : State, s.Inv → step s = .next t → t.Inv

/-- The state after reset has the invariant. -/
def Obligations.ResetHasTheInvariant : Prop := State.reset.Inv

/-- R136, R139: under IGNORE a stall ends by reset alone: through any number of steps and any schedule of host operations
without a reset, the core stays stalled at its point, with its counters, registers, store, memory and pulses as they
were. -/
def Obligations.StallIsForever : Prop :=
  ∀ (n : Nat) (s t : State), s.Stalled → s.policy.startWhileBusy = .ignore → Stimulus.reset ∉ s.inbox →
    runSteps n s = .next t →
    t.Stalled ∧ t.busy = true ∧ t.idx = s.idx ∧ t.irqCount = s.irqCount ∧ pulses t = pulses s ∧
    t.vertices = s.vertices ∧ t.collisions = s.collisions ∧ t.stray = s.stray ∧
    t.x = s.x ∧ t.ucode = s.ucode ∧ t.mem = s.mem

/-- R116, R136: a run on a store without a completion flag stalls after 512 core steps, at the first point, with no
pulse; it has executed every slot once. -/
def Obligations.RunWithoutCompletionFlagStalls : Prop :=
  ∀ s : State, s.inbox = [] → (∀ k < 512, s.slotEnds k = false) →
    ∃ t, runSteps 512 s.startRun = .next t ∧ t.Stalled ∧ t.idx = 0 ∧ t.irqCount = s.irqCount ∧
      t.vertices.toNat = s.emissionsBefore 512

/-- R202, R133, R140: a run on a store whose first completion flag is in slot `last` ends after exactly
`total × (last + 1)` core steps, and not before. -/
def Obligations.RunEndsAfterTotalTimesLengthSteps : Prop :=
  ∀ (s : State) (last : Nat), s.inbox = [] → s.EndsAt last →
    (∃ t, runSteps (s.startRun.total * (last + 1)) s.startRun = .next t ∧ RunEnded s.toCoreState t.toCoreState ∧
      t.idx = s.startRun.total) ∧
    ∀ n < s.startRun.total * (last + 1), ∃ t, runSteps n s.startRun = .next t ∧ t.fsm = .running ∧
      t.irqCount = s.irqCount

/-- R165 (c), (d): the counters at the end of a run whose program emits `e` times per pass, each before saturation:
`vertices = e × total` and `stray = (e - 1) × total`; without the address wrap, `collisions` is the same as `stray`. -/
def Obligations.CountersAtTheEndOfARun : Prop :=
  ∀ (s t : State) (last : Nat), s.inbox = [] → s.EndsAt last →
    runSteps (s.startRun.total * (last + 1)) s.startRun = .next t →
    t.vertices.toNat = min (s.emissionsBefore (last + 1) * s.startRun.total) 0xFFFFFFFF ∧
    t.stray.toNat = min ((s.emissionsBefore (last + 1) - 1) * s.startRun.total) 0xFFFFFFFF ∧
    (s.startRun.total ≤ 2 ^ 28 → t.collisions = t.stray)

/-- R28 (f), R200: a run of a well-formed microprogram on a mesh without address wrap ends with no collision, no stray
write and no more vertices than points. -/
def Obligations.WellFormedProgramsRunClean : Prop :=
  ∀ s : State, s.inbox = [] → s.WellFormedProgram → s.startRun.total ≤ 2 ^ 28 →
    ∃ n t, runSteps n s.startRun = .next t ∧ RunEnded s.toCoreState t.toCoreState ∧
      t.collisions = 0 ∧ t.stray = 0 ∧ t.vertices.toNat ≤ s.startRun.total
end

