-- ==== Sys2Proof/Laws/Word.lean ====
section
/-! SUPPORT. The bounds of the bit-vector types in numerals. `BitVec.isLt` gives them with the named widths of
spec/00_scope.md R4, which arithmetic tactics do not unfold. -/

namespace Sys2Proof

theorem word_toNat_lt (w : Word) : w.toNat < 2 ^ 32 := w.isLt

theorem addr_toNat_lt (a : Addr) : a.toNat < 2 ^ 32 := a.isLt

theorem meshField_toNat_lt (w : MeshField) : w.toNat < 2 ^ 32 := w.isLt

theorem counter_toNat_lt (c : Counter) : c.toNat < 2 ^ 32 := c.isLt

theorem regIdx_toNat_lt (r : RegIdx) : r.toNat < 128 := r.isLt

theorem opcode_toNat_lt (o : Opcode) : o.toNat < 16 := o.isLt

theorem ucodeIdx_lt (k : Fin Config.ucodeWords) : k.val < 512 := k.isLt

/-- The sign bit is bit 31. -/
theorem word_msb (w : Word) : w.msb = w.getLsbD 31 := BitVec.msb_eq_getLsbD_last w

end Sys2Proof
end

