-- ==== Sys2Proof/Laws/Memory.lean ====
section
/-! SUPPORT. What the operations over the memory and the address set do: a read after a write, and that every
operation keeps the canonical form. -/

namespace Sys2Proof.Machine

open Sys2Proof

/-- Everything a byte write does, seen through the read of one byte. -/
theorem Memory.read_write (m : Memory) (a : Nat) (b : Byte) (a' : Nat) :
    (m.write a b).read a' = if a' = a then some b else m.read a' := by
  induction m with
  | nil => simp only [Memory.write, Memory.read, eq_comm]
  | cons c m ih =>
    simp only [Memory.write]
    split
    · rename_i hlt
      simp only [Memory.read, eq_comm (a := a)]
    · split
      · rename_i hlt heq
        subst heq
        simp only [Memory.read, eq_comm (b := a')]
        split <;> rfl
      · rename_i hlt heq
        simp only [Memory.read, ih]
        by_cases h1 : c.1 = a'
        · simp only [h1, if_true]
          rw [if_neg (by omega)]
        · simp only [h1, if_false]

/-- Membership after a byte write. -/
theorem Memory.mem_write {m : Memory} {a : Nat} {b : Byte} {c : Host.Cell} (h : c ∈ m.write a b) :
    c = (a, b) ∨ c ∈ m := by
  induction m with
  | nil => simpa [Memory.write] using h
  | cons d m ih =>
    simp only [Memory.write] at h
    split at h
    · simpa using h
    · split at h
      · rcases List.mem_cons.mp h with h | h
        · exact .inl h
        · exact .inr (List.mem_cons_of_mem _ h)
      · rcases List.mem_cons.mp h with h | h
        · exact .inr (h ▸ List.mem_cons_self)
        · exact (ih h).imp_right (List.mem_cons_of_mem _)

/-- A byte write at a 32-bit address keeps the canonical form. -/
theorem Memory.wf_write {m : Memory} (hm : m.wf) {a : Nat} (ha : a < 2 ^ 32) (b : Byte) : (m.write a b).wf := by
  refine ⟨?_, fun c hc => ?_⟩
  · have hp := hm.1
    clear hm
    induction m with
    | nil => simp [Memory.write]
    | cons d m ih =>
      have hd := List.pairwise_cons.mp hp
      simp only [Memory.write]
      split
      · rename_i hlt
        refine List.pairwise_cons.mpr ⟨fun c hc => ?_, hp⟩
        rcases List.mem_cons.mp hc with rfl | hc
        · exact hlt
        · exact lt_trans hlt (hd.1 c hc)
      · split
        · rename_i hlt heq
          exact List.pairwise_cons.mpr ⟨fun c hc => heq ▸ hd.1 c hc, hd.2⟩
        · refine List.pairwise_cons.mpr ⟨fun c hc => ?_, ih hd.2⟩
          rcases Memory.mem_write hc with rfl | hc
          · show d.1 < a
            omega
          · exact hd.1 c hc
  · rcases Memory.mem_write hc with rfl | hc
    · exact ha
    · exact hm.2 c hc

theorem byteAddr_lt (a : Addr) (k : Nat) : byteAddr a k < 2 ^ 32 := addr_toNat_lt _

/-- A word write keeps the canonical form. -/
theorem Memory.wf_writeWord {m : Memory} (hm : m.wf) (order : ByteOrder) (a : Addr) (v : Word) :
    (m.writeWord order a v).wf :=
  Memory.wf_write (Memory.wf_write (Memory.wf_write (Memory.wf_write hm (byteAddr_lt a 0) _) (byteAddr_lt a 1) _)
    (byteAddr_lt a 2) _) (byteAddr_lt a 3) _

theorem State.memWrite_wf {s : State} (h : s.mem.wf) (a : Addr) (v : Word) : (s.memWrite a v).mem.wf :=
  Memory.wf_writeWord h _ a v

/-- Everything `insertAddr` does to membership. -/
theorem mem_insertAddr (a c : Addr) (l : List Addr) : c ∈ insertAddr a l ↔ c = a ∨ c ∈ l := by
  induction l with
  | nil => simp [insertAddr]
  | cons d l ih =>
    simp only [insertAddr]
    split
    · simp
    · split
      · rename_i heq
        subst heq
        simp
      · simp only [List.mem_cons, ih]
        tauto

/-- `insertAddr` keeps the list strictly rising. -/
theorem insertAddr_rising (a : Addr) {l : List Addr} (h : l.Pairwise (fun c c' => c.toNat < c'.toNat)) :
    (insertAddr a l).Pairwise (fun c c' => c.toNat < c'.toNat) := by
  induction l with
  | nil => simp [insertAddr]
  | cons d l ih =>
    have hd := List.pairwise_cons.mp h
    simp only [insertAddr]
    split
    · rename_i hlt
      refine List.pairwise_cons.mpr ⟨fun c hc => ?_, h⟩
      rcases List.mem_cons.mp hc with rfl | hc
      · exact hlt
      · exact lt_trans hlt (hd.1 c hc)
    · split
      · exact h
      · rename_i hlt hne
        refine List.pairwise_cons.mpr ⟨fun c hc => ?_, ih hd.2⟩
        rcases (mem_insertAddr a c l).mp hc with rfl | hc
        · have : d.toNat ≠ c.toNat := fun h => hne (BitVec.eq_of_toNat_eq h.symm)
          omega
        · exact hd.1 c hc

/-- Everything `sat32Succ` does, as numbers (R164). -/
theorem sat32Succ_toNat (c : Counter) : (sat32Succ c).toNat = min (c.toNat + 1) 0xFFFFFFFF := by
  have hc := counter_toNat_lt c
  unfold sat32Succ
  split
  · rename_i h
    subst h
    decide
  · rename_i h
    have hne : c.toNat ≠ 0xFFFFFFFF := fun h' => h (BitVec.eq_of_toNat_eq (by simpa using h'))
    have h1 : (c + 1).toNat = (c.toNat + 1) % 2 ^ 32 := BitVec.toNat_add c 1
    rw [h1]
    omega

/-- Reading a register after a register write. -/
theorem reg_setReg (s : State) (i j : RegIdx) (v : Word) :
    (s.setReg i v).reg j = if j = i then v else s.reg j := by
  simp only [State.reg, State.setReg, Vector.getElem_set, BitVec.toNat_inj, eq_comm (a := i)]

@[simp] theorem reg_setReg_self (s : State) (i : RegIdx) (v : Word) : (s.setReg i v).reg i = v := by
  simp [reg_setReg]

theorem reg_setReg_of_ne (s : State) {i j : RegIdx} (h : j ≠ i) (v : Word) : (s.setReg i v).reg j = s.reg j := by
  simp [reg_setReg, h]

end Sys2Proof.Machine
end

