-- ==== Sys2Proof/Laws/State.lean ====
section
/-! SUPPORT. One lemma per field per update of the state, each true by rfl, so that no later proof unfolds a record
update; the derived reads `reg`, `total`, `emitAddr` and `busy` under the updates that do not touch what they read. -/

namespace Sys2Proof.Machine

variable (s : State)

/-! ### setReg -/

@[simp] theorem setReg_x (i : RegIdx) (v : Word) : (s.setReg i v).x = s.x.set i.toNat v i.isLt := rfl
@[simp] theorem setReg_ucode (i : RegIdx) (v : Word) : (s.setReg i v).ucode = s.ucode := rfl
@[simp] theorem setReg_pc (i : RegIdx) (v : Word) : (s.setReg i v).pc = s.pc := rfl
@[simp] theorem setReg_fsm (i : RegIdx) (v : Word) : (s.setReg i v).fsm = s.fsm := rfl
@[simp] theorem setReg_emitted (i : RegIdx) (v : Word) : (s.setReg i v).emitted = s.emitted := rfl
@[simp] theorem setReg_dmaBase (i : RegIdx) (v : Word) : (s.setReg i v).dmaBase = s.dmaBase := rfl
@[simp] theorem setReg_meshW (i : RegIdx) (v : Word) : (s.setReg i v).meshW = s.meshW := rfl
@[simp] theorem setReg_meshH (i : RegIdx) (v : Word) : (s.setReg i v).meshH = s.meshH := rfl
@[simp] theorem setReg_vertices (i : RegIdx) (v : Word) : (s.setReg i v).vertices = s.vertices := rfl
@[simp] theorem setReg_collisions (i : RegIdx) (v : Word) : (s.setReg i v).collisions = s.collisions := rfl
@[simp] theorem setReg_stray (i : RegIdx) (v : Word) : (s.setReg i v).stray = s.stray := rfl
@[simp] theorem setReg_runBase (i : RegIdx) (v : Word) : (s.setReg i v).runBase = s.runBase := rfl
@[simp] theorem setReg_runW (i : RegIdx) (v : Word) : (s.setReg i v).runW = s.runW := rfl
@[simp] theorem setReg_runH (i : RegIdx) (v : Word) : (s.setReg i v).runH = s.runH := rfl
@[simp] theorem setReg_idx (i : RegIdx) (v : Word) : (s.setReg i v).idx = s.idx := rfl
@[simp] theorem setReg_written (i : RegIdx) (v : Word) : (s.setReg i v).written = s.written := rfl
@[simp] theorem setReg_irqCount (i : RegIdx) (v : Word) : (s.setReg i v).irqCount = s.irqCount := rfl
@[simp] theorem setReg_mem (i : RegIdx) (v : Word) : (s.setReg i v).mem = s.mem := rfl
@[simp] theorem setReg_port (i : RegIdx) (v : Word) : (s.setReg i v).port = s.port := rfl
@[simp] theorem setReg_inbox (i : RegIdx) (v : Word) : (s.setReg i v).inbox = s.inbox := rfl
@[simp] theorem setReg_policy (i : RegIdx) (v : Word) : (s.setReg i v).policy = s.policy := rfl
@[simp] theorem setReg_draws (i : RegIdx) (v : Word) : (s.setReg i v).draws = s.draws := rfl
@[simp] theorem setReg_total (i : RegIdx) (v : Word) : (s.setReg i v).total = s.total := rfl
@[simp] theorem setReg_emitAddr (i : RegIdx) (v : Word) : (s.setReg i v).emitAddr = s.emitAddr := rfl
@[simp] theorem setReg_busy (i : RegIdx) (v : Word) : (s.setReg i v).busy = s.busy := rfl

/-! ### useDraws -/

@[simp] theorem useDraws_x (n : Nat) : (s.useDraws n).x = s.x := rfl
@[simp] theorem useDraws_ucode (n : Nat) : (s.useDraws n).ucode = s.ucode := rfl
@[simp] theorem useDraws_pc (n : Nat) : (s.useDraws n).pc = s.pc := rfl
@[simp] theorem useDraws_fsm (n : Nat) : (s.useDraws n).fsm = s.fsm := rfl
@[simp] theorem useDraws_emitted (n : Nat) : (s.useDraws n).emitted = s.emitted := rfl
@[simp] theorem useDraws_dmaBase (n : Nat) : (s.useDraws n).dmaBase = s.dmaBase := rfl
@[simp] theorem useDraws_meshW (n : Nat) : (s.useDraws n).meshW = s.meshW := rfl
@[simp] theorem useDraws_meshH (n : Nat) : (s.useDraws n).meshH = s.meshH := rfl
@[simp] theorem useDraws_vertices (n : Nat) : (s.useDraws n).vertices = s.vertices := rfl
@[simp] theorem useDraws_collisions (n : Nat) : (s.useDraws n).collisions = s.collisions := rfl
@[simp] theorem useDraws_stray (n : Nat) : (s.useDraws n).stray = s.stray := rfl
@[simp] theorem useDraws_runBase (n : Nat) : (s.useDraws n).runBase = s.runBase := rfl
@[simp] theorem useDraws_runW (n : Nat) : (s.useDraws n).runW = s.runW := rfl
@[simp] theorem useDraws_runH (n : Nat) : (s.useDraws n).runH = s.runH := rfl
@[simp] theorem useDraws_idx (n : Nat) : (s.useDraws n).idx = s.idx := rfl
@[simp] theorem useDraws_written (n : Nat) : (s.useDraws n).written = s.written := rfl
@[simp] theorem useDraws_irqCount (n : Nat) : (s.useDraws n).irqCount = s.irqCount := rfl
@[simp] theorem useDraws_mem (n : Nat) : (s.useDraws n).mem = s.mem := rfl
@[simp] theorem useDraws_port (n : Nat) : (s.useDraws n).port = s.port := rfl
@[simp] theorem useDraws_inbox (n : Nat) : (s.useDraws n).inbox = s.inbox := rfl
@[simp] theorem useDraws_policy (n : Nat) : (s.useDraws n).policy = s.policy := rfl
@[simp] theorem useDraws_draws (n : Nat) : (s.useDraws n).draws = s.draws + n := rfl
@[simp] theorem useDraws_reg (n : Nat) (j : RegIdx) : (s.useDraws n).reg j = s.reg j := rfl
@[simp] theorem useDraws_total (n : Nat) : (s.useDraws n).total = s.total := rfl
@[simp] theorem useDraws_emitAddr (n : Nat) : (s.useDraws n).emitAddr = s.emitAddr := rfl
@[simp] theorem useDraws_busy (n : Nat) : (s.useDraws n).busy = s.busy := rfl

/-! ### memWrite -/

@[simp] theorem memWrite_x (a : Addr) (v : Word) : (s.memWrite a v).x = s.x := rfl
@[simp] theorem memWrite_ucode (a : Addr) (v : Word) : (s.memWrite a v).ucode = s.ucode := rfl
@[simp] theorem memWrite_pc (a : Addr) (v : Word) : (s.memWrite a v).pc = s.pc := rfl
@[simp] theorem memWrite_fsm (a : Addr) (v : Word) : (s.memWrite a v).fsm = s.fsm := rfl
@[simp] theorem memWrite_emitted (a : Addr) (v : Word) : (s.memWrite a v).emitted = s.emitted := rfl
@[simp] theorem memWrite_dmaBase (a : Addr) (v : Word) : (s.memWrite a v).dmaBase = s.dmaBase := rfl
@[simp] theorem memWrite_meshW (a : Addr) (v : Word) : (s.memWrite a v).meshW = s.meshW := rfl
@[simp] theorem memWrite_meshH (a : Addr) (v : Word) : (s.memWrite a v).meshH = s.meshH := rfl
@[simp] theorem memWrite_vertices (a : Addr) (v : Word) : (s.memWrite a v).vertices = s.vertices := rfl
@[simp] theorem memWrite_collisions (a : Addr) (v : Word) : (s.memWrite a v).collisions = s.collisions := rfl
@[simp] theorem memWrite_stray (a : Addr) (v : Word) : (s.memWrite a v).stray = s.stray := rfl
@[simp] theorem memWrite_runBase (a : Addr) (v : Word) : (s.memWrite a v).runBase = s.runBase := rfl
@[simp] theorem memWrite_runW (a : Addr) (v : Word) : (s.memWrite a v).runW = s.runW := rfl
@[simp] theorem memWrite_runH (a : Addr) (v : Word) : (s.memWrite a v).runH = s.runH := rfl
@[simp] theorem memWrite_idx (a : Addr) (v : Word) : (s.memWrite a v).idx = s.idx := rfl
@[simp] theorem memWrite_written (a : Addr) (v : Word) : (s.memWrite a v).written = s.written := rfl
@[simp] theorem memWrite_irqCount (a : Addr) (v : Word) : (s.memWrite a v).irqCount = s.irqCount := rfl
@[simp] theorem memWrite_mem (a : Addr) (v : Word) : (s.memWrite a v).mem = s.mem.writeWord s.policy.dmaByteOrder a v := rfl
@[simp] theorem memWrite_port (a : Addr) (v : Word) : (s.memWrite a v).port = .memWrite a v :: s.port := rfl
@[simp] theorem memWrite_inbox (a : Addr) (v : Word) : (s.memWrite a v).inbox = s.inbox := rfl
@[simp] theorem memWrite_policy (a : Addr) (v : Word) : (s.memWrite a v).policy = s.policy := rfl
@[simp] theorem memWrite_draws (a : Addr) (v : Word) : (s.memWrite a v).draws = s.draws := rfl
@[simp] theorem memWrite_reg (a : Addr) (v : Word) (j : RegIdx) : (s.memWrite a v).reg j = s.reg j := rfl
@[simp] theorem memWrite_total (a : Addr) (v : Word) : (s.memWrite a v).total = s.total := rfl
@[simp] theorem memWrite_emitAddr (a : Addr) (v : Word) : (s.memWrite a v).emitAddr = s.emitAddr := rfl
@[simp] theorem memWrite_busy (a : Addr) (v : Word) : (s.memWrite a v).busy = s.busy := rfl

/-! ### putReadData -/

@[simp] theorem putReadData_x (off : Nat) (v : Word) : (s.putReadData off v).x = s.x := rfl
@[simp] theorem putReadData_ucode (off : Nat) (v : Word) : (s.putReadData off v).ucode = s.ucode := rfl
@[simp] theorem putReadData_pc (off : Nat) (v : Word) : (s.putReadData off v).pc = s.pc := rfl
@[simp] theorem putReadData_fsm (off : Nat) (v : Word) : (s.putReadData off v).fsm = s.fsm := rfl
@[simp] theorem putReadData_emitted (off : Nat) (v : Word) : (s.putReadData off v).emitted = s.emitted := rfl
@[simp] theorem putReadData_dmaBase (off : Nat) (v : Word) : (s.putReadData off v).dmaBase = s.dmaBase := rfl
@[simp] theorem putReadData_meshW (off : Nat) (v : Word) : (s.putReadData off v).meshW = s.meshW := rfl
@[simp] theorem putReadData_meshH (off : Nat) (v : Word) : (s.putReadData off v).meshH = s.meshH := rfl
@[simp] theorem putReadData_vertices (off : Nat) (v : Word) : (s.putReadData off v).vertices = s.vertices := rfl
@[simp] theorem putReadData_collisions (off : Nat) (v : Word) : (s.putReadData off v).collisions = s.collisions := rfl
@[simp] theorem putReadData_stray (off : Nat) (v : Word) : (s.putReadData off v).stray = s.stray := rfl
@[simp] theorem putReadData_runBase (off : Nat) (v : Word) : (s.putReadData off v).runBase = s.runBase := rfl
@[simp] theorem putReadData_runW (off : Nat) (v : Word) : (s.putReadData off v).runW = s.runW := rfl
@[simp] theorem putReadData_runH (off : Nat) (v : Word) : (s.putReadData off v).runH = s.runH := rfl
@[simp] theorem putReadData_idx (off : Nat) (v : Word) : (s.putReadData off v).idx = s.idx := rfl
@[simp] theorem putReadData_written (off : Nat) (v : Word) : (s.putReadData off v).written = s.written := rfl
@[simp] theorem putReadData_irqCount (off : Nat) (v : Word) : (s.putReadData off v).irqCount = s.irqCount := rfl
@[simp] theorem putReadData_mem (off : Nat) (v : Word) : (s.putReadData off v).mem = s.mem := rfl
@[simp] theorem putReadData_port (off : Nat) (v : Word) : (s.putReadData off v).port = .readData off v :: s.port := rfl
@[simp] theorem putReadData_inbox (off : Nat) (v : Word) : (s.putReadData off v).inbox = s.inbox := rfl
@[simp] theorem putReadData_policy (off : Nat) (v : Word) : (s.putReadData off v).policy = s.policy := rfl
@[simp] theorem putReadData_draws (off : Nat) (v : Word) : (s.putReadData off v).draws = s.draws := rfl
@[simp] theorem putReadData_reg (off : Nat) (v : Word) (j : RegIdx) : (s.putReadData off v).reg j = s.reg j := rfl
@[simp] theorem putReadData_total (off : Nat) (v : Word) : (s.putReadData off v).total = s.total := rfl
@[simp] theorem putReadData_emitAddr (off : Nat) (v : Word) : (s.putReadData off v).emitAddr = s.emitAddr := rfl
@[simp] theorem putReadData_busy (off : Nat) (v : Word) : (s.putReadData off v).busy = s.busy := rfl

/-! ### testCollision -/

@[simp] theorem testCollision_x : (s.testCollision).x = s.x := rfl
@[simp] theorem testCollision_ucode : (s.testCollision).ucode = s.ucode := rfl
@[simp] theorem testCollision_pc : (s.testCollision).pc = s.pc := rfl
@[simp] theorem testCollision_fsm : (s.testCollision).fsm = s.fsm := rfl
@[simp] theorem testCollision_emitted : (s.testCollision).emitted = s.emitted := rfl
@[simp] theorem testCollision_dmaBase : (s.testCollision).dmaBase = s.dmaBase := rfl
@[simp] theorem testCollision_meshW : (s.testCollision).meshW = s.meshW := rfl
@[simp] theorem testCollision_meshH : (s.testCollision).meshH = s.meshH := rfl
@[simp] theorem testCollision_vertices : (s.testCollision).vertices = s.vertices := rfl
@[simp] theorem testCollision_collisions : (s.testCollision).collisions = if s.emitAddr ∈ s.written then sat32Succ s.collisions else s.collisions := rfl
@[simp] theorem testCollision_stray : (s.testCollision).stray = s.stray := rfl
@[simp] theorem testCollision_runBase : (s.testCollision).runBase = s.runBase := rfl
@[simp] theorem testCollision_runW : (s.testCollision).runW = s.runW := rfl
@[simp] theorem testCollision_runH : (s.testCollision).runH = s.runH := rfl
@[simp] theorem testCollision_idx : (s.testCollision).idx = s.idx := rfl
@[simp] theorem testCollision_written : (s.testCollision).written = s.written := rfl
@[simp] theorem testCollision_irqCount : (s.testCollision).irqCount = s.irqCount := rfl
@[simp] theorem testCollision_mem : (s.testCollision).mem = s.mem := rfl
@[simp] theorem testCollision_port : (s.testCollision).port = s.port := rfl
@[simp] theorem testCollision_inbox : (s.testCollision).inbox = s.inbox := rfl
@[simp] theorem testCollision_policy : (s.testCollision).policy = s.policy := rfl
@[simp] theorem testCollision_draws : (s.testCollision).draws = s.draws := rfl
@[simp] theorem testCollision_reg (j : RegIdx) : (s.testCollision).reg j = s.reg j := rfl
@[simp] theorem testCollision_total : (s.testCollision).total = s.total := rfl
@[simp] theorem testCollision_emitAddr : (s.testCollision).emitAddr = s.emitAddr := rfl
@[simp] theorem testCollision_busy : (s.testCollision).busy = s.busy := rfl

/-! ### testStray -/

@[simp] theorem testStray_x : (s.testStray).x = s.x := rfl
@[simp] theorem testStray_ucode : (s.testStray).ucode = s.ucode := rfl
@[simp] theorem testStray_pc : (s.testStray).pc = s.pc := rfl
@[simp] theorem testStray_fsm : (s.testStray).fsm = s.fsm := rfl
@[simp] theorem testStray_emitted : (s.testStray).emitted = s.emitted := rfl
@[simp] theorem testStray_dmaBase : (s.testStray).dmaBase = s.dmaBase := rfl
@[simp] theorem testStray_meshW : (s.testStray).meshW = s.meshW := rfl
@[simp] theorem testStray_meshH : (s.testStray).meshH = s.meshH := rfl
@[simp] theorem testStray_vertices : (s.testStray).vertices = s.vertices := rfl
@[simp] theorem testStray_collisions : (s.testStray).collisions = s.collisions := rfl
@[simp] theorem testStray_stray : (s.testStray).stray = if s.emitted then sat32Succ s.stray else s.stray := rfl
@[simp] theorem testStray_runBase : (s.testStray).runBase = s.runBase := rfl
@[simp] theorem testStray_runW : (s.testStray).runW = s.runW := rfl
@[simp] theorem testStray_runH : (s.testStray).runH = s.runH := rfl
@[simp] theorem testStray_idx : (s.testStray).idx = s.idx := rfl
@[simp] theorem testStray_written : (s.testStray).written = s.written := rfl
@[simp] theorem testStray_irqCount : (s.testStray).irqCount = s.irqCount := rfl
@[simp] theorem testStray_mem : (s.testStray).mem = s.mem := rfl
@[simp] theorem testStray_port : (s.testStray).port = s.port := rfl
@[simp] theorem testStray_inbox : (s.testStray).inbox = s.inbox := rfl
@[simp] theorem testStray_policy : (s.testStray).policy = s.policy := rfl
@[simp] theorem testStray_draws : (s.testStray).draws = s.draws := rfl
@[simp] theorem testStray_reg (j : RegIdx) : (s.testStray).reg j = s.reg j := rfl
@[simp] theorem testStray_total : (s.testStray).total = s.total := rfl
@[simp] theorem testStray_emitAddr : (s.testStray).emitAddr = s.emitAddr := rfl
@[simp] theorem testStray_busy : (s.testStray).busy = s.busy := rfl

/-! ### countVertex -/

@[simp] theorem countVertex_x : (s.countVertex).x = s.x := rfl
@[simp] theorem countVertex_ucode : (s.countVertex).ucode = s.ucode := rfl
@[simp] theorem countVertex_pc : (s.countVertex).pc = s.pc := rfl
@[simp] theorem countVertex_fsm : (s.countVertex).fsm = s.fsm := rfl
@[simp] theorem countVertex_emitted : (s.countVertex).emitted = s.emitted := rfl
@[simp] theorem countVertex_dmaBase : (s.countVertex).dmaBase = s.dmaBase := rfl
@[simp] theorem countVertex_meshW : (s.countVertex).meshW = s.meshW := rfl
@[simp] theorem countVertex_meshH : (s.countVertex).meshH = s.meshH := rfl
@[simp] theorem countVertex_vertices : (s.countVertex).vertices = sat32Succ s.vertices := rfl
@[simp] theorem countVertex_collisions : (s.countVertex).collisions = s.collisions := rfl
@[simp] theorem countVertex_stray : (s.countVertex).stray = s.stray := rfl
@[simp] theorem countVertex_runBase : (s.countVertex).runBase = s.runBase := rfl
@[simp] theorem countVertex_runW : (s.countVertex).runW = s.runW := rfl
@[simp] theorem countVertex_runH : (s.countVertex).runH = s.runH := rfl
@[simp] theorem countVertex_idx : (s.countVertex).idx = s.idx := rfl
@[simp] theorem countVertex_written : (s.countVertex).written = s.written := rfl
@[simp] theorem countVertex_irqCount : (s.countVertex).irqCount = s.irqCount := rfl
@[simp] theorem countVertex_mem : (s.countVertex).mem = s.mem := rfl
@[simp] theorem countVertex_port : (s.countVertex).port = s.port := rfl
@[simp] theorem countVertex_inbox : (s.countVertex).inbox = s.inbox := rfl
@[simp] theorem countVertex_policy : (s.countVertex).policy = s.policy := rfl
@[simp] theorem countVertex_draws : (s.countVertex).draws = s.draws := rfl
@[simp] theorem countVertex_reg (j : RegIdx) : (s.countVertex).reg j = s.reg j := rfl
@[simp] theorem countVertex_total : (s.countVertex).total = s.total := rfl
@[simp] theorem countVertex_emitAddr : (s.countVertex).emitAddr = s.emitAddr := rfl
@[simp] theorem countVertex_busy : (s.countVertex).busy = s.busy := rfl

/-! ### markEmitted -/

@[simp] theorem markEmitted_x : (s.markEmitted).x = s.x := rfl
@[simp] theorem markEmitted_ucode : (s.markEmitted).ucode = s.ucode := rfl
@[simp] theorem markEmitted_pc : (s.markEmitted).pc = s.pc := rfl
@[simp] theorem markEmitted_fsm : (s.markEmitted).fsm = s.fsm := rfl
@[simp] theorem markEmitted_emitted : (s.markEmitted).emitted = true := rfl
@[simp] theorem markEmitted_dmaBase : (s.markEmitted).dmaBase = s.dmaBase := rfl
@[simp] theorem markEmitted_meshW : (s.markEmitted).meshW = s.meshW := rfl
@[simp] theorem markEmitted_meshH : (s.markEmitted).meshH = s.meshH := rfl
@[simp] theorem markEmitted_vertices : (s.markEmitted).vertices = s.vertices := rfl
@[simp] theorem markEmitted_collisions : (s.markEmitted).collisions = s.collisions := rfl
@[simp] theorem markEmitted_stray : (s.markEmitted).stray = s.stray := rfl
@[simp] theorem markEmitted_runBase : (s.markEmitted).runBase = s.runBase := rfl
@[simp] theorem markEmitted_runW : (s.markEmitted).runW = s.runW := rfl
@[simp] theorem markEmitted_runH : (s.markEmitted).runH = s.runH := rfl
@[simp] theorem markEmitted_idx : (s.markEmitted).idx = s.idx := rfl
@[simp] theorem markEmitted_written : (s.markEmitted).written = insertAddr s.emitAddr s.written := rfl
@[simp] theorem markEmitted_irqCount : (s.markEmitted).irqCount = s.irqCount := rfl
@[simp] theorem markEmitted_mem : (s.markEmitted).mem = s.mem := rfl
@[simp] theorem markEmitted_port : (s.markEmitted).port = s.port := rfl
@[simp] theorem markEmitted_inbox : (s.markEmitted).inbox = s.inbox := rfl
@[simp] theorem markEmitted_policy : (s.markEmitted).policy = s.policy := rfl
@[simp] theorem markEmitted_draws : (s.markEmitted).draws = s.draws := rfl
@[simp] theorem markEmitted_reg (j : RegIdx) : (s.markEmitted).reg j = s.reg j := rfl
@[simp] theorem markEmitted_total : (s.markEmitted).total = s.total := rfl
@[simp] theorem markEmitted_emitAddr : (s.markEmitted).emitAddr = s.emitAddr := rfl
@[simp] theorem markEmitted_busy : (s.markEmitted).busy = s.busy := rfl

/-! ### startRun -/

@[simp] theorem startRun_x : (s.startRun).x = s.x := rfl
@[simp] theorem startRun_ucode : (s.startRun).ucode = s.ucode := rfl
@[simp] theorem startRun_pc : (s.startRun).pc = 0 := rfl
@[simp] theorem startRun_fsm : (s.startRun).fsm = .running := rfl
@[simp] theorem startRun_emitted : (s.startRun).emitted = false := rfl
@[simp] theorem startRun_dmaBase : (s.startRun).dmaBase = s.dmaBase := rfl
@[simp] theorem startRun_meshW : (s.startRun).meshW = s.meshW := rfl
@[simp] theorem startRun_meshH : (s.startRun).meshH = s.meshH := rfl
@[simp] theorem startRun_vertices : (s.startRun).vertices = 0 := rfl
@[simp] theorem startRun_collisions : (s.startRun).collisions = 0 := rfl
@[simp] theorem startRun_stray : (s.startRun).stray = 0 := rfl
@[simp] theorem startRun_runBase : (s.startRun).runBase = s.dmaBase := rfl
@[simp] theorem startRun_runW : (s.startRun).runW = s.meshW := rfl
@[simp] theorem startRun_runH : (s.startRun).runH = s.meshH := rfl
@[simp] theorem startRun_idx : (s.startRun).idx = 0 := rfl
@[simp] theorem startRun_written : (s.startRun).written = [] := rfl
@[simp] theorem startRun_irqCount : (s.startRun).irqCount = s.irqCount := rfl
@[simp] theorem startRun_mem : (s.startRun).mem = s.mem := rfl
@[simp] theorem startRun_port : (s.startRun).port = s.port := rfl
@[simp] theorem startRun_inbox : (s.startRun).inbox = s.inbox := rfl
@[simp] theorem startRun_policy : (s.startRun).policy = s.policy := rfl
@[simp] theorem startRun_draws : (s.startRun).draws = s.draws := rfl
@[simp] theorem startRun_reg (j : RegIdx) : (s.startRun).reg j = s.reg j := rfl

/-! ### finishRun -/

@[simp] theorem finishRun_x : (s.finishRun).x = s.x := rfl
@[simp] theorem finishRun_ucode : (s.finishRun).ucode = s.ucode := rfl
@[simp] theorem finishRun_pc : (s.finishRun).pc = s.pc := rfl
@[simp] theorem finishRun_fsm : (s.finishRun).fsm = .done := rfl
@[simp] theorem finishRun_emitted : (s.finishRun).emitted = s.emitted := rfl
@[simp] theorem finishRun_dmaBase : (s.finishRun).dmaBase = s.dmaBase := rfl
@[simp] theorem finishRun_meshW : (s.finishRun).meshW = s.meshW := rfl
@[simp] theorem finishRun_meshH : (s.finishRun).meshH = s.meshH := rfl
@[simp] theorem finishRun_vertices : (s.finishRun).vertices = s.vertices := rfl
@[simp] theorem finishRun_collisions : (s.finishRun).collisions = s.collisions := rfl
@[simp] theorem finishRun_stray : (s.finishRun).stray = s.stray := rfl
@[simp] theorem finishRun_runBase : (s.finishRun).runBase = s.runBase := rfl
@[simp] theorem finishRun_runW : (s.finishRun).runW = s.runW := rfl
@[simp] theorem finishRun_runH : (s.finishRun).runH = s.runH := rfl
@[simp] theorem finishRun_idx : (s.finishRun).idx = s.idx := rfl
@[simp] theorem finishRun_written : (s.finishRun).written = s.written := rfl
@[simp] theorem finishRun_irqCount : (s.finishRun).irqCount = s.irqCount + 1 := rfl
@[simp] theorem finishRun_mem : (s.finishRun).mem = s.mem := rfl
@[simp] theorem finishRun_port : (s.finishRun).port = .irqPulse :: s.port := rfl
@[simp] theorem finishRun_inbox : (s.finishRun).inbox = s.inbox := rfl
@[simp] theorem finishRun_policy : (s.finishRun).policy = s.policy := rfl
@[simp] theorem finishRun_draws : (s.finishRun).draws = s.draws := rfl
@[simp] theorem finishRun_reg (j : RegIdx) : (s.finishRun).reg j = s.reg j := rfl
@[simp] theorem finishRun_total : (s.finishRun).total = s.total := rfl
@[simp] theorem finishRun_emitAddr : (s.finishRun).emitAddr = s.emitAddr := rfl

/-! ### advanceIdx -/

@[simp] theorem advanceIdx_x : (s.advanceIdx).x = s.x := rfl
@[simp] theorem advanceIdx_ucode : (s.advanceIdx).ucode = s.ucode := rfl
@[simp] theorem advanceIdx_pc : (s.advanceIdx).pc = s.pc := rfl
@[simp] theorem advanceIdx_fsm : (s.advanceIdx).fsm = s.fsm := rfl
@[simp] theorem advanceIdx_emitted : (s.advanceIdx).emitted = s.emitted := rfl
@[simp] theorem advanceIdx_dmaBase : (s.advanceIdx).dmaBase = s.dmaBase := rfl
@[simp] theorem advanceIdx_meshW : (s.advanceIdx).meshW = s.meshW := rfl
@[simp] theorem advanceIdx_meshH : (s.advanceIdx).meshH = s.meshH := rfl
@[simp] theorem advanceIdx_vertices : (s.advanceIdx).vertices = s.vertices := rfl
@[simp] theorem advanceIdx_collisions : (s.advanceIdx).collisions = s.collisions := rfl
@[simp] theorem advanceIdx_stray : (s.advanceIdx).stray = s.stray := rfl
@[simp] theorem advanceIdx_runBase : (s.advanceIdx).runBase = s.runBase := rfl
@[simp] theorem advanceIdx_runW : (s.advanceIdx).runW = s.runW := rfl
@[simp] theorem advanceIdx_runH : (s.advanceIdx).runH = s.runH := rfl
@[simp] theorem advanceIdx_idx : (s.advanceIdx).idx = s.idx + 1 := rfl
@[simp] theorem advanceIdx_written : (s.advanceIdx).written = s.written := rfl
@[simp] theorem advanceIdx_irqCount : (s.advanceIdx).irqCount = s.irqCount := rfl
@[simp] theorem advanceIdx_mem : (s.advanceIdx).mem = s.mem := rfl
@[simp] theorem advanceIdx_port : (s.advanceIdx).port = s.port := rfl
@[simp] theorem advanceIdx_inbox : (s.advanceIdx).inbox = s.inbox := rfl
@[simp] theorem advanceIdx_policy : (s.advanceIdx).policy = s.policy := rfl
@[simp] theorem advanceIdx_draws : (s.advanceIdx).draws = s.draws := rfl
@[simp] theorem advanceIdx_reg (j : RegIdx) : (s.advanceIdx).reg j = s.reg j := rfl
@[simp] theorem advanceIdx_total : (s.advanceIdx).total = s.total := rfl
@[simp] theorem advanceIdx_busy : (s.advanceIdx).busy = s.busy := rfl

/-! ### nextPass -/

@[simp] theorem nextPass_x : (s.nextPass).x = s.x := rfl
@[simp] theorem nextPass_ucode : (s.nextPass).ucode = s.ucode := rfl
@[simp] theorem nextPass_pc : (s.nextPass).pc = 0 := rfl
@[simp] theorem nextPass_fsm : (s.nextPass).fsm = s.fsm := rfl
@[simp] theorem nextPass_emitted : (s.nextPass).emitted = false := rfl
@[simp] theorem nextPass_dmaBase : (s.nextPass).dmaBase = s.dmaBase := rfl
@[simp] theorem nextPass_meshW : (s.nextPass).meshW = s.meshW := rfl
@[simp] theorem nextPass_meshH : (s.nextPass).meshH = s.meshH := rfl
@[simp] theorem nextPass_vertices : (s.nextPass).vertices = s.vertices := rfl
@[simp] theorem nextPass_collisions : (s.nextPass).collisions = s.collisions := rfl
@[simp] theorem nextPass_stray : (s.nextPass).stray = s.stray := rfl
@[simp] theorem nextPass_runBase : (s.nextPass).runBase = s.runBase := rfl
@[simp] theorem nextPass_runW : (s.nextPass).runW = s.runW := rfl
@[simp] theorem nextPass_runH : (s.nextPass).runH = s.runH := rfl
@[simp] theorem nextPass_idx : (s.nextPass).idx = s.idx := rfl
@[simp] theorem nextPass_written : (s.nextPass).written = s.written := rfl
@[simp] theorem nextPass_irqCount : (s.nextPass).irqCount = s.irqCount := rfl
@[simp] theorem nextPass_mem : (s.nextPass).mem = s.mem := rfl
@[simp] theorem nextPass_port : (s.nextPass).port = s.port := rfl
@[simp] theorem nextPass_inbox : (s.nextPass).inbox = s.inbox := rfl
@[simp] theorem nextPass_policy : (s.nextPass).policy = s.policy := rfl
@[simp] theorem nextPass_draws : (s.nextPass).draws = s.draws := rfl
@[simp] theorem nextPass_reg (j : RegIdx) : (s.nextPass).reg j = s.reg j := rfl
@[simp] theorem nextPass_total : (s.nextPass).total = s.total := rfl
@[simp] theorem nextPass_emitAddr : (s.nextPass).emitAddr = s.emitAddr := rfl
@[simp] theorem nextPass_busy : (s.nextPass).busy = s.busy := rfl

/-! ### advancePc -/

@[simp] theorem advancePc_x : (s.advancePc).x = s.x := rfl
@[simp] theorem advancePc_ucode : (s.advancePc).ucode = s.ucode := rfl
@[simp] theorem advancePc_pc : (s.advancePc).pc = s.pc + 1 := rfl
@[simp] theorem advancePc_fsm : (s.advancePc).fsm = s.fsm := rfl
@[simp] theorem advancePc_emitted : (s.advancePc).emitted = s.emitted := rfl
@[simp] theorem advancePc_dmaBase : (s.advancePc).dmaBase = s.dmaBase := rfl
@[simp] theorem advancePc_meshW : (s.advancePc).meshW = s.meshW := rfl
@[simp] theorem advancePc_meshH : (s.advancePc).meshH = s.meshH := rfl
@[simp] theorem advancePc_vertices : (s.advancePc).vertices = s.vertices := rfl
@[simp] theorem advancePc_collisions : (s.advancePc).collisions = s.collisions := rfl
@[simp] theorem advancePc_stray : (s.advancePc).stray = s.stray := rfl
@[simp] theorem advancePc_runBase : (s.advancePc).runBase = s.runBase := rfl
@[simp] theorem advancePc_runW : (s.advancePc).runW = s.runW := rfl
@[simp] theorem advancePc_runH : (s.advancePc).runH = s.runH := rfl
@[simp] theorem advancePc_idx : (s.advancePc).idx = s.idx := rfl
@[simp] theorem advancePc_written : (s.advancePc).written = s.written := rfl
@[simp] theorem advancePc_irqCount : (s.advancePc).irqCount = s.irqCount := rfl
@[simp] theorem advancePc_mem : (s.advancePc).mem = s.mem := rfl
@[simp] theorem advancePc_port : (s.advancePc).port = s.port := rfl
@[simp] theorem advancePc_inbox : (s.advancePc).inbox = s.inbox := rfl
@[simp] theorem advancePc_policy : (s.advancePc).policy = s.policy := rfl
@[simp] theorem advancePc_draws : (s.advancePc).draws = s.draws := rfl
@[simp] theorem advancePc_reg (j : RegIdx) : (s.advancePc).reg j = s.reg j := rfl
@[simp] theorem advancePc_total : (s.advancePc).total = s.total := rfl
@[simp] theorem advancePc_emitAddr : (s.advancePc).emitAddr = s.emitAddr := rfl
@[simp] theorem advancePc_busy : (s.advancePc).busy = s.busy := rfl

/-! ### setUcode -/

@[simp] theorem setUcode_x (k : Fin Config.ucodeWords) (v : Word) : (s.setUcode k v).x = s.x := rfl
@[simp] theorem setUcode_ucode (k : Fin Config.ucodeWords) (v : Word) : (s.setUcode k v).ucode = s.ucode.set k.val v k.isLt := rfl
@[simp] theorem setUcode_pc (k : Fin Config.ucodeWords) (v : Word) : (s.setUcode k v).pc = s.pc := rfl
@[simp] theorem setUcode_fsm (k : Fin Config.ucodeWords) (v : Word) : (s.setUcode k v).fsm = s.fsm := rfl
@[simp] theorem setUcode_emitted (k : Fin Config.ucodeWords) (v : Word) : (s.setUcode k v).emitted = s.emitted := rfl
@[simp] theorem setUcode_dmaBase (k : Fin Config.ucodeWords) (v : Word) : (s.setUcode k v).dmaBase = s.dmaBase := rfl
@[simp] theorem setUcode_meshW (k : Fin Config.ucodeWords) (v : Word) : (s.setUcode k v).meshW = s.meshW := rfl
@[simp] theorem setUcode_meshH (k : Fin Config.ucodeWords) (v : Word) : (s.setUcode k v).meshH = s.meshH := rfl
@[simp] theorem setUcode_vertices (k : Fin Config.ucodeWords) (v : Word) : (s.setUcode k v).vertices = s.vertices := rfl
@[simp] theorem setUcode_collisions (k : Fin Config.ucodeWords) (v : Word) : (s.setUcode k v).collisions = s.collisions := rfl
@[simp] theorem setUcode_stray (k : Fin Config.ucodeWords) (v : Word) : (s.setUcode k v).stray = s.stray := rfl
@[simp] theorem setUcode_runBase (k : Fin Config.ucodeWords) (v : Word) : (s.setUcode k v).runBase = s.runBase := rfl
@[simp] theorem setUcode_runW (k : Fin Config.ucodeWords) (v : Word) : (s.setUcode k v).runW = s.runW := rfl
@[simp] theorem setUcode_runH (k : Fin Config.ucodeWords) (v : Word) : (s.setUcode k v).runH = s.runH := rfl
@[simp] theorem setUcode_idx (k : Fin Config.ucodeWords) (v : Word) : (s.setUcode k v).idx = s.idx := rfl
@[simp] theorem setUcode_written (k : Fin Config.ucodeWords) (v : Word) : (s.setUcode k v).written = s.written := rfl
@[simp] theorem setUcode_irqCount (k : Fin Config.ucodeWords) (v : Word) : (s.setUcode k v).irqCount = s.irqCount := rfl
@[simp] theorem setUcode_mem (k : Fin Config.ucodeWords) (v : Word) : (s.setUcode k v).mem = s.mem := rfl
@[simp] theorem setUcode_port (k : Fin Config.ucodeWords) (v : Word) : (s.setUcode k v).port = s.port := rfl
@[simp] theorem setUcode_inbox (k : Fin Config.ucodeWords) (v : Word) : (s.setUcode k v).inbox = s.inbox := rfl
@[simp] theorem setUcode_policy (k : Fin Config.ucodeWords) (v : Word) : (s.setUcode k v).policy = s.policy := rfl
@[simp] theorem setUcode_draws (k : Fin Config.ucodeWords) (v : Word) : (s.setUcode k v).draws = s.draws := rfl
@[simp] theorem setUcode_reg (k : Fin Config.ucodeWords) (v : Word) (j : RegIdx) : (s.setUcode k v).reg j = s.reg j := rfl
@[simp] theorem setUcode_total (k : Fin Config.ucodeWords) (v : Word) : (s.setUcode k v).total = s.total := rfl
@[simp] theorem setUcode_emitAddr (k : Fin Config.ucodeWords) (v : Word) : (s.setUcode k v).emitAddr = s.emitAddr := rfl
@[simp] theorem setUcode_busy (k : Fin Config.ucodeWords) (v : Word) : (s.setUcode k v).busy = s.busy := rfl

/-! ### setDmaBase -/

@[simp] theorem setDmaBase_x (v : Word) : (s.setDmaBase v).x = s.x := rfl
@[simp] theorem setDmaBase_ucode (v : Word) : (s.setDmaBase v).ucode = s.ucode := rfl
@[simp] theorem setDmaBase_pc (v : Word) : (s.setDmaBase v).pc = s.pc := rfl
@[simp] theorem setDmaBase_fsm (v : Word) : (s.setDmaBase v).fsm = s.fsm := rfl
@[simp] theorem setDmaBase_emitted (v : Word) : (s.setDmaBase v).emitted = s.emitted := rfl
@[simp] theorem setDmaBase_dmaBase (v : Word) : (s.setDmaBase v).dmaBase = v := rfl
@[simp] theorem setDmaBase_meshW (v : Word) : (s.setDmaBase v).meshW = s.meshW := rfl
@[simp] theorem setDmaBase_meshH (v : Word) : (s.setDmaBase v).meshH = s.meshH := rfl
@[simp] theorem setDmaBase_vertices (v : Word) : (s.setDmaBase v).vertices = s.vertices := rfl
@[simp] theorem setDmaBase_collisions (v : Word) : (s.setDmaBase v).collisions = s.collisions := rfl
@[simp] theorem setDmaBase_stray (v : Word) : (s.setDmaBase v).stray = s.stray := rfl
@[simp] theorem setDmaBase_runBase (v : Word) : (s.setDmaBase v).runBase = s.runBase := rfl
@[simp] theorem setDmaBase_runW (v : Word) : (s.setDmaBase v).runW = s.runW := rfl
@[simp] theorem setDmaBase_runH (v : Word) : (s.setDmaBase v).runH = s.runH := rfl
@[simp] theorem setDmaBase_idx (v : Word) : (s.setDmaBase v).idx = s.idx := rfl
@[simp] theorem setDmaBase_written (v : Word) : (s.setDmaBase v).written = s.written := rfl
@[simp] theorem setDmaBase_irqCount (v : Word) : (s.setDmaBase v).irqCount = s.irqCount := rfl
@[simp] theorem setDmaBase_mem (v : Word) : (s.setDmaBase v).mem = s.mem := rfl
@[simp] theorem setDmaBase_port (v : Word) : (s.setDmaBase v).port = s.port := rfl
@[simp] theorem setDmaBase_inbox (v : Word) : (s.setDmaBase v).inbox = s.inbox := rfl
@[simp] theorem setDmaBase_policy (v : Word) : (s.setDmaBase v).policy = s.policy := rfl
@[simp] theorem setDmaBase_draws (v : Word) : (s.setDmaBase v).draws = s.draws := rfl
@[simp] theorem setDmaBase_reg (v : Word) (j : RegIdx) : (s.setDmaBase v).reg j = s.reg j := rfl
@[simp] theorem setDmaBase_total (v : Word) : (s.setDmaBase v).total = s.total := rfl
@[simp] theorem setDmaBase_emitAddr (v : Word) : (s.setDmaBase v).emitAddr = s.emitAddr := rfl
@[simp] theorem setDmaBase_busy (v : Word) : (s.setDmaBase v).busy = s.busy := rfl

/-! ### setMeshW -/

@[simp] theorem setMeshW_x (v : Word) : (s.setMeshW v).x = s.x := rfl
@[simp] theorem setMeshW_ucode (v : Word) : (s.setMeshW v).ucode = s.ucode := rfl
@[simp] theorem setMeshW_pc (v : Word) : (s.setMeshW v).pc = s.pc := rfl
@[simp] theorem setMeshW_fsm (v : Word) : (s.setMeshW v).fsm = s.fsm := rfl
@[simp] theorem setMeshW_emitted (v : Word) : (s.setMeshW v).emitted = s.emitted := rfl
@[simp] theorem setMeshW_dmaBase (v : Word) : (s.setMeshW v).dmaBase = s.dmaBase := rfl
@[simp] theorem setMeshW_meshW (v : Word) : (s.setMeshW v).meshW = v := rfl
@[simp] theorem setMeshW_meshH (v : Word) : (s.setMeshW v).meshH = s.meshH := rfl
@[simp] theorem setMeshW_vertices (v : Word) : (s.setMeshW v).vertices = s.vertices := rfl
@[simp] theorem setMeshW_collisions (v : Word) : (s.setMeshW v).collisions = s.collisions := rfl
@[simp] theorem setMeshW_stray (v : Word) : (s.setMeshW v).stray = s.stray := rfl
@[simp] theorem setMeshW_runBase (v : Word) : (s.setMeshW v).runBase = s.runBase := rfl
@[simp] theorem setMeshW_runW (v : Word) : (s.setMeshW v).runW = s.runW := rfl
@[simp] theorem setMeshW_runH (v : Word) : (s.setMeshW v).runH = s.runH := rfl
@[simp] theorem setMeshW_idx (v : Word) : (s.setMeshW v).idx = s.idx := rfl
@[simp] theorem setMeshW_written (v : Word) : (s.setMeshW v).written = s.written := rfl
@[simp] theorem setMeshW_irqCount (v : Word) : (s.setMeshW v).irqCount = s.irqCount := rfl
@[simp] theorem setMeshW_mem (v : Word) : (s.setMeshW v).mem = s.mem := rfl
@[simp] theorem setMeshW_port (v : Word) : (s.setMeshW v).port = s.port := rfl
@[simp] theorem setMeshW_inbox (v : Word) : (s.setMeshW v).inbox = s.inbox := rfl
@[simp] theorem setMeshW_policy (v : Word) : (s.setMeshW v).policy = s.policy := rfl
@[simp] theorem setMeshW_draws (v : Word) : (s.setMeshW v).draws = s.draws := rfl
@[simp] theorem setMeshW_reg (v : Word) (j : RegIdx) : (s.setMeshW v).reg j = s.reg j := rfl
@[simp] theorem setMeshW_total (v : Word) : (s.setMeshW v).total = s.total := rfl
@[simp] theorem setMeshW_emitAddr (v : Word) : (s.setMeshW v).emitAddr = s.emitAddr := rfl
@[simp] theorem setMeshW_busy (v : Word) : (s.setMeshW v).busy = s.busy := rfl

/-! ### setMeshH -/

@[simp] theorem setMeshH_x (v : Word) : (s.setMeshH v).x = s.x := rfl
@[simp] theorem setMeshH_ucode (v : Word) : (s.setMeshH v).ucode = s.ucode := rfl
@[simp] theorem setMeshH_pc (v : Word) : (s.setMeshH v).pc = s.pc := rfl
@[simp] theorem setMeshH_fsm (v : Word) : (s.setMeshH v).fsm = s.fsm := rfl
@[simp] theorem setMeshH_emitted (v : Word) : (s.setMeshH v).emitted = s.emitted := rfl
@[simp] theorem setMeshH_dmaBase (v : Word) : (s.setMeshH v).dmaBase = s.dmaBase := rfl
@[simp] theorem setMeshH_meshW (v : Word) : (s.setMeshH v).meshW = s.meshW := rfl
@[simp] theorem setMeshH_meshH (v : Word) : (s.setMeshH v).meshH = v := rfl
@[simp] theorem setMeshH_vertices (v : Word) : (s.setMeshH v).vertices = s.vertices := rfl
@[simp] theorem setMeshH_collisions (v : Word) : (s.setMeshH v).collisions = s.collisions := rfl
@[simp] theorem setMeshH_stray (v : Word) : (s.setMeshH v).stray = s.stray := rfl
@[simp] theorem setMeshH_runBase (v : Word) : (s.setMeshH v).runBase = s.runBase := rfl
@[simp] theorem setMeshH_runW (v : Word) : (s.setMeshH v).runW = s.runW := rfl
@[simp] theorem setMeshH_runH (v : Word) : (s.setMeshH v).runH = s.runH := rfl
@[simp] theorem setMeshH_idx (v : Word) : (s.setMeshH v).idx = s.idx := rfl
@[simp] theorem setMeshH_written (v : Word) : (s.setMeshH v).written = s.written := rfl
@[simp] theorem setMeshH_irqCount (v : Word) : (s.setMeshH v).irqCount = s.irqCount := rfl
@[simp] theorem setMeshH_mem (v : Word) : (s.setMeshH v).mem = s.mem := rfl
@[simp] theorem setMeshH_port (v : Word) : (s.setMeshH v).port = s.port := rfl
@[simp] theorem setMeshH_inbox (v : Word) : (s.setMeshH v).inbox = s.inbox := rfl
@[simp] theorem setMeshH_policy (v : Word) : (s.setMeshH v).policy = s.policy := rfl
@[simp] theorem setMeshH_draws (v : Word) : (s.setMeshH v).draws = s.draws := rfl
@[simp] theorem setMeshH_reg (v : Word) (j : RegIdx) : (s.setMeshH v).reg j = s.reg j := rfl
@[simp] theorem setMeshH_total (v : Word) : (s.setMeshH v).total = s.total := rfl
@[simp] theorem setMeshH_emitAddr (v : Word) : (s.setMeshH v).emitAddr = s.emitAddr := rfl
@[simp] theorem setMeshH_busy (v : Word) : (s.setMeshH v).busy = s.busy := rfl

/-! ### takeTurn -/

@[simp] theorem takeTurn_x : (s.takeTurn).x = s.x := rfl
@[simp] theorem takeTurn_ucode : (s.takeTurn).ucode = s.ucode := rfl
@[simp] theorem takeTurn_pc : (s.takeTurn).pc = s.pc := rfl
@[simp] theorem takeTurn_fsm : (s.takeTurn).fsm = s.fsm := rfl
@[simp] theorem takeTurn_emitted : (s.takeTurn).emitted = s.emitted := rfl
@[simp] theorem takeTurn_dmaBase : (s.takeTurn).dmaBase = s.dmaBase := rfl
@[simp] theorem takeTurn_meshW : (s.takeTurn).meshW = s.meshW := rfl
@[simp] theorem takeTurn_meshH : (s.takeTurn).meshH = s.meshH := rfl
@[simp] theorem takeTurn_vertices : (s.takeTurn).vertices = s.vertices := rfl
@[simp] theorem takeTurn_collisions : (s.takeTurn).collisions = s.collisions := rfl
@[simp] theorem takeTurn_stray : (s.takeTurn).stray = s.stray := rfl
@[simp] theorem takeTurn_runBase : (s.takeTurn).runBase = s.runBase := rfl
@[simp] theorem takeTurn_runW : (s.takeTurn).runW = s.runW := rfl
@[simp] theorem takeTurn_runH : (s.takeTurn).runH = s.runH := rfl
@[simp] theorem takeTurn_idx : (s.takeTurn).idx = s.idx := rfl
@[simp] theorem takeTurn_written : (s.takeTurn).written = s.written := rfl
@[simp] theorem takeTurn_irqCount : (s.takeTurn).irqCount = s.irqCount := rfl
@[simp] theorem takeTurn_mem : (s.takeTurn).mem = s.mem := rfl
@[simp] theorem takeTurn_port : (s.takeTurn).port = s.port := rfl
@[simp] theorem takeTurn_inbox : (s.takeTurn).inbox = s.inbox.tail := rfl
@[simp] theorem takeTurn_policy : (s.takeTurn).policy = s.policy := rfl
@[simp] theorem takeTurn_draws : (s.takeTurn).draws = s.draws := rfl
@[simp] theorem takeTurn_reg (j : RegIdx) : (s.takeTurn).reg j = s.reg j := rfl
@[simp] theorem takeTurn_total : (s.takeTurn).total = s.total := rfl
@[simp] theorem takeTurn_emitAddr : (s.takeTurn).emitAddr = s.emitAddr := rfl
@[simp] theorem takeTurn_busy : (s.takeTurn).busy = s.busy := rfl

/-! ### placeFetchWord -/

@[simp] theorem placeFetchWord_x (w : Word) : (s.placeFetchWord w).x = s.x := rfl
@[simp] theorem placeFetchWord_ucode (w : Word) : (s.placeFetchWord w).ucode =
    if h : s.fetchSlot < Config.ucodeWords then s.ucode.set s.fetchSlot w h else s.ucode := rfl
@[simp] theorem placeFetchWord_pc (w : Word) : (s.placeFetchWord w).pc = s.fetchSlot := rfl
@[simp] theorem placeFetchWord_fsm (w : Word) : (s.placeFetchWord w).fsm = .running := rfl
@[simp] theorem placeFetchWord_emitted (w : Word) : (s.placeFetchWord w).emitted = s.emitted := rfl
@[simp] theorem placeFetchWord_dmaBase (w : Word) : (s.placeFetchWord w).dmaBase = s.dmaBase := rfl
@[simp] theorem placeFetchWord_meshW (w : Word) : (s.placeFetchWord w).meshW = s.meshW := rfl
@[simp] theorem placeFetchWord_meshH (w : Word) : (s.placeFetchWord w).meshH = s.meshH := rfl
@[simp] theorem placeFetchWord_vertices (w : Word) : (s.placeFetchWord w).vertices = s.vertices := rfl
@[simp] theorem placeFetchWord_collisions (w : Word) : (s.placeFetchWord w).collisions = s.collisions := rfl
@[simp] theorem placeFetchWord_stray (w : Word) : (s.placeFetchWord w).stray = s.stray := rfl
@[simp] theorem placeFetchWord_runBase (w : Word) : (s.placeFetchWord w).runBase = s.runBase := rfl
@[simp] theorem placeFetchWord_runW (w : Word) : (s.placeFetchWord w).runW = s.runW := rfl
@[simp] theorem placeFetchWord_runH (w : Word) : (s.placeFetchWord w).runH = s.runH := rfl
@[simp] theorem placeFetchWord_idx (w : Word) : (s.placeFetchWord w).idx = s.idx := rfl
@[simp] theorem placeFetchWord_written (w : Word) : (s.placeFetchWord w).written = s.written := rfl
@[simp] theorem placeFetchWord_irqCount (w : Word) : (s.placeFetchWord w).irqCount = s.irqCount := rfl
@[simp] theorem placeFetchWord_mem (w : Word) : (s.placeFetchWord w).mem = s.mem := rfl
@[simp] theorem placeFetchWord_port (w : Word) : (s.placeFetchWord w).port = s.port := rfl
@[simp] theorem placeFetchWord_inbox (w : Word) : (s.placeFetchWord w).inbox = [] := rfl
@[simp] theorem placeFetchWord_policy (w : Word) : (s.placeFetchWord w).policy = s.policy := rfl
@[simp] theorem placeFetchWord_draws (w : Word) : (s.placeFetchWord w).draws = s.draws := rfl
@[simp] theorem placeFetchWord_reg (w : Word) (j : RegIdx) : (s.placeFetchWord w).reg j = s.reg j := rfl
@[simp] theorem placeFetchWord_total (w : Word) : (s.placeFetchWord w).total = s.total := rfl
@[simp] theorem placeFetchWord_emitAddr (w : Word) : (s.placeFetchWord w).emitAddr = s.emitAddr := rfl

/-! ### resetInput -/

@[simp] theorem resetInput_pc : s.resetInput.pc = 0 := by simp only [State.resetInput, CoreState.afterReset]
@[simp] theorem resetInput_fsm : s.resetInput.fsm = .idle := by simp only [State.resetInput, CoreState.afterReset]
@[simp] theorem resetInput_emitted : s.resetInput.emitted = false := by simp only [State.resetInput, CoreState.afterReset]
@[simp] theorem resetInput_dmaBase : s.resetInput.dmaBase = 0 := by simp only [State.resetInput, CoreState.afterReset]
@[simp] theorem resetInput_meshW : s.resetInput.meshW = 0 := by simp only [State.resetInput, CoreState.afterReset]
@[simp] theorem resetInput_meshH : s.resetInput.meshH = 0 := by simp only [State.resetInput, CoreState.afterReset]
@[simp] theorem resetInput_vertices : s.resetInput.vertices = 0 := by simp only [State.resetInput, CoreState.afterReset]
@[simp] theorem resetInput_collisions : s.resetInput.collisions = 0 := by simp only [State.resetInput, CoreState.afterReset]
@[simp] theorem resetInput_stray : s.resetInput.stray = 0 := by simp only [State.resetInput, CoreState.afterReset]
@[simp] theorem resetInput_runBase : s.resetInput.runBase = 0 := by simp only [State.resetInput, CoreState.afterReset]
@[simp] theorem resetInput_runW : s.resetInput.runW = 0 := by simp only [State.resetInput, CoreState.afterReset]
@[simp] theorem resetInput_runH : s.resetInput.runH = 0 := by simp only [State.resetInput, CoreState.afterReset]
@[simp] theorem resetInput_idx : s.resetInput.idx = 0 := by simp only [State.resetInput, CoreState.afterReset]
@[simp] theorem resetInput_written : s.resetInput.written = [] := by simp only [State.resetInput, CoreState.afterReset]
@[simp] theorem resetInput_irqCount : s.resetInput.irqCount = 0 := by simp only [State.resetInput, CoreState.afterReset]
@[simp] theorem resetInput_mem : s.resetInput.mem = s.mem := by simp only [State.resetInput, CoreState.afterReset]
@[simp] theorem resetInput_port : s.resetInput.port = s.port := by simp only [State.resetInput, CoreState.afterReset]
@[simp] theorem resetInput_inbox : s.resetInput.inbox = s.inbox := by simp only [State.resetInput, CoreState.afterReset]
@[simp] theorem resetInput_policy : s.resetInput.policy = s.policy := by simp only [State.resetInput, CoreState.afterReset]
@[simp] theorem resetInput_draws : s.resetInput.draws = s.draws + Config.nRegs + Config.ucodeWords := by simp only [State.resetInput, CoreState.afterReset]
@[simp] theorem resetInput_reg (j : RegIdx) : s.resetInput.reg j = Config.draw (s.draws + j.toNat) := by
  simp [State.resetInput, CoreState.afterReset, State.reg]
@[simp] theorem resetInput_ucode (k : Nat) (h : k < Config.ucodeWords) :
    s.resetInput.ucode[k] = Config.draw (s.draws + Config.nRegs + k) := by
  simp [State.resetInput, CoreState.afterReset]
@[simp] theorem resetInput_busy : s.resetInput.busy = false := by simp [CoreState.busy]
@[simp] theorem resetInput_total : s.resetInput.total = 1 := by simp [CoreState.total]

end Sys2Proof.Machine
end

