-- ==== Sys2Proof/Laws/Emission.lean ====
section
/-! SUPPORT. What the emission and the two flags do: the fields after each, the bytes an emission stores, and the
inversion of the end of a pass. -/

namespace Sys2Proof.Machine

open Sys2Proof

/-! ## Addresses -/

theorem byteAddr_emitWordAddr (addr : Addr) (k j : Nat) :
    byteAddr (emitWordAddr addr k) j = byteAddr addr (4 * k + j) := by
  simp only [byteAddr, emitWordAddr, BitVec.add_assoc, BitVec.ofNat_add_ofNat]

theorem byteAddr_toNat (addr : Addr) (j : Nat) : byteAddr addr j = (addr.toNat + j) % 2 ^ 32 := by
  simp only [byteAddr, BitVec.toNat_add, BitVec.toNat_ofNat, Config.addrBits]
  omega

/-- Two bytes less than 2^32 apart are at different addresses. -/
theorem byteAddr_inj {addr : Addr} {i j : Nat} (hi : i < 2 ^ 32) (hj : j < 2 ^ 32)
    (h : byteAddr addr i = byteAddr addr j) : i = j := by
  simp only [byteAddr_toNat] at h
  omega

/-- The emission address as a number (R150). -/
theorem emitAddr_toNat (s : CoreState) : s.emitAddr.toNat = (s.runBase.toNat + 16 * s.idx) % 2 ^ 32 := by
  simp [CoreState.emitAddr]

/-! ## Word writes -/

/-- Everything a word write does, seen through the read of one byte. -/
theorem Memory.read_writeWord (order : ByteOrder) (m : Memory) (a : Addr) (v : Word) (a' : Nat) :
    (m.writeWord order a v).read a' =
      if a' = byteAddr a 3 then some (wordByte order v 3)
      else if a' = byteAddr a 2 then some (wordByte order v 2)
      else if a' = byteAddr a 1 then some (wordByte order v 1)
      else if a' = byteAddr a 0 then some (wordByte order v 0)
      else m.read a' := by
  simp only [Memory.writeWord, Memory.read_write]

/-- A byte of the word just written. -/
theorem Memory.read_writeWord_of_lt (order : ByteOrder) (m : Memory) (a : Addr) (v : Word) {j : Nat} (hj : j < 4) :
    (m.writeWord order a v).read (byteAddr a j) = some (wordByte order v j) := by
  have key : ∀ i < 4, byteAddr a j = byteAddr a i ↔ j = i := fun i hi =>
    ⟨fun h => byteAddr_inj (by omega) (by omega) h, fun h => h ▸ rfl⟩
  rw [Memory.read_writeWord, if_congr (key 3 (by omega)) rfl rfl, if_congr (key 2 (by omega)) rfl rfl,
    if_congr (key 1 (by omega)) rfl rfl, if_congr (key 0 (by omega)) rfl rfl]
  repeat' split
  all_goals first | (subst_vars; rfl) | omega

/-- A byte outside the word just written. -/
theorem Memory.read_writeWord_of_ne (order : ByteOrder) (m : Memory) (a : Addr) (v : Word) {a' : Nat}
    (h : ∀ j < 4, a' ≠ byteAddr a j) : (m.writeWord order a v).read a' = m.read a' := by
  rw [Memory.read_writeWord, if_neg (h 3 (by omega)), if_neg (h 2 (by omega)), if_neg (h 1 (by omega)),
    if_neg (h 0 (by omega))]

/-! ## The four writes of an emission -/

/-- The four writes written out. -/
theorem writeVector_eq (s : State) (d : RegIdx) :
    s.writeVector d = (((s.memWrite (emitWordAddr s.emitAddr 0) (s.emitWord d 0)).memWrite (emitWordAddr s.emitAddr 1)
      (s.emitWord d 1)).memWrite (emitWordAddr s.emitAddr 2) (s.emitWord d 2)).memWrite (emitWordAddr s.emitAddr 3)
      (s.emitWord d 3) := rfl

/-- The memory after the four writes. -/
theorem writeVector_mem (s : State) (d : RegIdx) :
    (s.writeVector d).mem =
      (((s.mem.writeWord s.policy.dmaByteOrder (emitWordAddr s.emitAddr 0) (s.emitWord d 0)).writeWord
        s.policy.dmaByteOrder (emitWordAddr s.emitAddr 1) (s.emitWord d 1)).writeWord
        s.policy.dmaByteOrder (emitWordAddr s.emitAddr 2) (s.emitWord d 2)).writeWord
        s.policy.dmaByteOrder (emitWordAddr s.emitAddr 3) (s.emitWord d 3) := by
  simp only [writeVector_eq, memWrite_mem, memWrite_policy]

/-- The port after the four writes, newest first. -/
theorem writeVector_port (s : State) (d : RegIdx) :
    (s.writeVector d).port =
      .memWrite (emitWordAddr s.emitAddr 3) (s.emitWord d 3) :: .memWrite (emitWordAddr s.emitAddr 2) (s.emitWord d 2) ::
      .memWrite (emitWordAddr s.emitAddr 1) (s.emitWord d 1) :: .memWrite (emitWordAddr s.emitAddr 0) (s.emitWord d 0) ::
      s.port := by
  simp only [writeVector_eq, memWrite_port]

/-- A word write does not change the core. -/
theorem memWrite_core (s : State) (a : Addr) (v : Word) : (s.memWrite a v).toCoreState = s.toCoreState := rfl

/-- The core itself is not changed by its own writes to the memory. -/
theorem writeVector_core (s : State) (d : RegIdx) : (s.writeVector d).toCoreState = s.toCoreState := by
  simp only [writeVector_eq, memWrite_core]

theorem testCollision_emitWord (s : State) (d : RegIdx) (k : Nat) : s.testCollision.emitWord d k = s.emitWord d k := rfl
theorem testStray_emitWord (s : State) (d : RegIdx) (k : Nat) : s.testStray.emitWord d k = s.emitWord d k := rfl
theorem countVertex_emitWord (s : State) (d : RegIdx) (k : Nat) : s.countVertex.emitWord d k = s.emitWord d k := rfl

/-! An emission (R154), field by field. -/

@[simp] theorem emission_x (s : State) (d : RegIdx) : (s.emission d).x = s.x := by
  simp [State.emission, writeVector_core]

@[simp] theorem emission_ucode (s : State) (d : RegIdx) : (s.emission d).ucode = s.ucode := by
  simp [State.emission, writeVector_core]

@[simp] theorem emission_pc (s : State) (d : RegIdx) : (s.emission d).pc = s.pc := by
  simp [State.emission, writeVector_core]

@[simp] theorem emission_fsm (s : State) (d : RegIdx) : (s.emission d).fsm = s.fsm := by
  simp [State.emission, writeVector_core]

@[simp] theorem emission_dmaBase (s : State) (d : RegIdx) : (s.emission d).dmaBase = s.dmaBase := by
  simp [State.emission, writeVector_core]

@[simp] theorem emission_meshW (s : State) (d : RegIdx) : (s.emission d).meshW = s.meshW := by
  simp [State.emission, writeVector_core]

@[simp] theorem emission_meshH (s : State) (d : RegIdx) : (s.emission d).meshH = s.meshH := by
  simp [State.emission, writeVector_core]

@[simp] theorem emission_runBase (s : State) (d : RegIdx) : (s.emission d).runBase = s.runBase := by
  simp [State.emission, writeVector_core]

@[simp] theorem emission_runW (s : State) (d : RegIdx) : (s.emission d).runW = s.runW := by
  simp [State.emission, writeVector_core]

@[simp] theorem emission_runH (s : State) (d : RegIdx) : (s.emission d).runH = s.runH := by
  simp [State.emission, writeVector_core]

@[simp] theorem emission_idx (s : State) (d : RegIdx) : (s.emission d).idx = s.idx := by
  simp [State.emission, writeVector_core]

@[simp] theorem emission_irqCount (s : State) (d : RegIdx) : (s.emission d).irqCount = s.irqCount := by
  simp [State.emission, writeVector_core]

@[simp] theorem emission_emitted (s : State) (d : RegIdx) : (s.emission d).emitted = true := by
  simp [State.emission]

@[simp] theorem emission_vertices (s : State) (d : RegIdx) : (s.emission d).vertices = sat32Succ s.vertices := by
  simp [State.emission, writeVector_core]

@[simp] theorem emission_collisions (s : State) (d : RegIdx) : (s.emission d).collisions = if s.emitAddr ∈ s.written then sat32Succ s.collisions else s.collisions := by
  simp [State.emission, writeVector_core]

@[simp] theorem emission_stray (s : State) (d : RegIdx) : (s.emission d).stray = if s.emitted then sat32Succ s.stray else s.stray := by
  simp [State.emission, writeVector_core]
  rfl

@[simp] theorem emission_written (s : State) (d : RegIdx) : (s.emission d).written = insertAddr s.emitAddr s.written := by
  simp [State.emission, writeVector_core]

@[simp] theorem emission_inbox (s : State) (d : RegIdx) : (s.emission d).inbox = s.inbox := by
  simp [State.emission, writeVector_eq]

@[simp] theorem emission_policy (s : State) (d : RegIdx) : (s.emission d).policy = s.policy := by
  simp [State.emission, writeVector_eq]

@[simp] theorem emission_draws (s : State) (d : RegIdx) : (s.emission d).draws = s.draws := by
  simp [State.emission, writeVector_eq]

@[simp] theorem emission_reg (s : State) (d j : RegIdx) : (s.emission d).reg j = s.reg j := by
  simp only [State.reg, emission_x]

@[simp] theorem emission_total (s : State) (d : RegIdx) : (s.emission d).total = s.total := by
  simp only [CoreState.total, emission_runW, emission_runH]

@[simp] theorem emission_emitAddr (s : State) (d : RegIdx) : (s.emission d).emitAddr = s.emitAddr := by
  simp only [CoreState.emitAddr, emission_runBase, emission_idx]

theorem emission_mem (s : State) (d : RegIdx) : (s.emission d).mem = (s.writeVector d).mem := by
  simp only [State.emission, markEmitted_mem, writeVector_mem, countVertex_mem, testStray_mem, testCollision_mem,
    countVertex_policy, testStray_policy, testCollision_policy, countVertex_emitAddr, testStray_emitAddr,
    testCollision_emitAddr, countVertex_emitWord, testStray_emitWord, testCollision_emitWord]

theorem emission_port (s : State) (d : RegIdx) : (s.emission d).port = (s.writeVector d).port := by
  simp only [State.emission, markEmitted_port, writeVector_port, countVertex_port, testStray_port, testCollision_port,
    countVertex_emitAddr, testStray_emitAddr, testCollision_emitAddr, countVertex_emitWord, testStray_emitWord,
    testCollision_emitWord]

/-- A byte outside the 16 bytes of an emission reads as before it. -/
theorem emission_read_of_ne (s : State) (d : RegIdx) {a : Nat} (h : ∀ j < 16, a ≠ byteAddr s.emitAddr j) :
    (s.emission d).mem.read a = s.mem.read a := by
  have key : ∀ k < 4, ∀ j < 4, a ≠ byteAddr (emitWordAddr s.emitAddr k) j := fun k hk j hj => by
    rw [byteAddr_emitWordAddr]
    exact h _ (by omega)
  rw [emission_mem, writeVector_mem]
  rw [Memory.read_writeWord_of_ne _ _ _ _ (key 3 (by omega)), Memory.read_writeWord_of_ne _ _ _ _ (key 2 (by omega)),
    Memory.read_writeWord_of_ne _ _ _ _ (key 1 (by omega)), Memory.read_writeWord_of_ne _ _ _ _ (key 0 (by omega))]

/-- A byte of the word `k` of an emission. -/
theorem emission_read_word (s : State) (d : RegIdx) {k j : Nat} (hk : k < 4) (hj : j < 4) :
    (s.emission d).mem.read (byteAddr (emitWordAddr s.emitAddr k) j) =
      some (wordByte s.policy.dmaByteOrder (s.emitWord d k) j) := by
  have key : ∀ i < 4, i ≠ k → ∀ j' < 4,
      byteAddr (emitWordAddr s.emitAddr k) j ≠ byteAddr (emitWordAddr s.emitAddr i) j' := fun i hi hne j' hj' h => by
    rw [byteAddr_emitWordAddr, byteAddr_emitWordAddr] at h
    have := byteAddr_inj (by omega) (by omega) h
    omega
  rw [emission_mem, writeVector_mem]
  have hk' : k = 0 ∨ k = 1 ∨ k = 2 ∨ k = 3 := by omega
  rcases hk' with rfl | rfl | rfl | rfl
  · rw [Memory.read_writeWord_of_ne _ _ _ _ (key 3 (by omega) (by omega)),
      Memory.read_writeWord_of_ne _ _ _ _ (key 2 (by omega) (by omega)),
      Memory.read_writeWord_of_ne _ _ _ _ (key 1 (by omega) (by omega)), Memory.read_writeWord_of_lt _ _ _ _ hj]
  · rw [Memory.read_writeWord_of_ne _ _ _ _ (key 3 (by omega) (by omega)),
      Memory.read_writeWord_of_ne _ _ _ _ (key 2 (by omega) (by omega)), Memory.read_writeWord_of_lt _ _ _ _ hj]
  · rw [Memory.read_writeWord_of_ne _ _ _ _ (key 3 (by omega) (by omega)), Memory.read_writeWord_of_lt _ _ _ _ hj]
  · rw [Memory.read_writeWord_of_lt _ _ _ _ hj]

/-- An emission keeps the canonical form of the memory. -/
theorem emission_mem_wf {s : State} (h : s.mem.wf) (d : RegIdx) : (s.emission d).mem.wf := by
  rw [emission_mem, writeVector_mem]
  exact Memory.wf_writeWord (Memory.wf_writeWord (Memory.wf_writeWord (Memory.wf_writeWord h _ _ _) _ _ _) _ _ _) _ _ _

/-! ## The flags -/

/-- Phase 2 without EMIT does nothing. -/
@[simp] theorem emitPhase_false (s : State) (d : RegIdx) : s.emitPhase false d = s := rfl

/-- Phase 2 with EMIT is one emission. -/
@[simp] theorem emitPhase_true (s : State) (d : RegIdx) : s.emitPhase true d = s.emission d := rfl

/-- What phase 2 leaves unchanged. -/
theorem emitPhase_frame (s : State) (emit : Bool) (d : RegIdx) :
    (s.emitPhase emit d).x = s.x ∧ (s.emitPhase emit d).ucode = s.ucode ∧ (s.emitPhase emit d).pc = s.pc ∧
    (s.emitPhase emit d).fsm = s.fsm ∧ (s.emitPhase emit d).idx = s.idx ∧ (s.emitPhase emit d).dmaBase = s.dmaBase ∧
    (s.emitPhase emit d).meshW = s.meshW ∧ (s.emitPhase emit d).meshH = s.meshH ∧
    (s.emitPhase emit d).runBase = s.runBase ∧ (s.emitPhase emit d).runW = s.runW ∧
    (s.emitPhase emit d).runH = s.runH ∧ (s.emitPhase emit d).irqCount = s.irqCount ∧
    (s.emitPhase emit d).inbox = s.inbox ∧ (s.emitPhase emit d).policy = s.policy ∧
    (s.emitPhase emit d).draws = s.draws ∧ (s.emitPhase emit d).emitted = (emit || s.emitted) := by
  cases emit <;> simp

/-- Phase 3 without END advances `pc`. -/
@[simp] theorem endPhase_false (s : State) : s.endPhase false = s.advancePc := rfl

/-- Phase 3 with END ends the pass. -/
@[simp] theorem endPhase_true (s : State) : s.endPhase true = s.endOfPass := rfl

/-- The end of the last pass (R135). -/
theorem endOfPass_last {s : State} (h : s.idx + 1 = s.total) : s.endOfPass = s.advanceIdx.finishRun := if_pos h

/-- The end of an earlier pass (R134). -/
theorem endOfPass_next {s : State} (h : s.idx + 1 ≠ s.total) : s.endOfPass = s.advanceIdx.nextPass := if_neg h

/-- The three things phase 3 can do. -/
theorem endPhase_cases (s : State) (eop : Bool) :
    (eop = false ∧ s.endPhase eop = s.advancePc) ∨
    (eop = true ∧ s.idx + 1 = s.total ∧ s.endPhase eop = s.advanceIdx.finishRun) ∨
    (eop = true ∧ s.idx + 1 ≠ s.total ∧ s.endPhase eop = s.advanceIdx.nextPass) := by
  cases eop
  · exact .inl ⟨rfl, rfl⟩
  · by_cases h : s.idx + 1 = s.total
    · exact .inr (.inl ⟨rfl, h, endOfPass_last h⟩)
    · exact .inr (.inr ⟨rfl, h, endOfPass_next h⟩)

/-- What phase 3 leaves unchanged. -/
theorem endPhase_frame (s : State) (eop : Bool) :
    (s.endPhase eop).x = s.x ∧ (s.endPhase eop).ucode = s.ucode ∧ (s.endPhase eop).dmaBase = s.dmaBase ∧
    (s.endPhase eop).meshW = s.meshW ∧ (s.endPhase eop).meshH = s.meshH ∧ (s.endPhase eop).runBase = s.runBase ∧
    (s.endPhase eop).runW = s.runW ∧ (s.endPhase eop).runH = s.runH ∧ (s.endPhase eop).vertices = s.vertices ∧
    (s.endPhase eop).collisions = s.collisions ∧ (s.endPhase eop).stray = s.stray ∧
    (s.endPhase eop).written = s.written ∧ (s.endPhase eop).mem = s.mem ∧ (s.endPhase eop).inbox = s.inbox ∧
    (s.endPhase eop).policy = s.policy ∧ (s.endPhase eop).draws = s.draws := by
  rcases endPhase_cases s eop with ⟨_, h⟩ | ⟨_, _, h⟩ | ⟨_, _, h⟩ <;> rw [h] <;> simp

/-- What an instruction leaves unchanged after its operation. -/
theorem retire_frame (s : State) (eop emit : Bool) (d : RegIdx) :
    (s.retire eop emit d).x = s.x ∧ (s.retire eop emit d).ucode = s.ucode ∧
    (s.retire eop emit d).dmaBase = s.dmaBase ∧ (s.retire eop emit d).meshW = s.meshW ∧
    (s.retire eop emit d).meshH = s.meshH ∧ (s.retire eop emit d).runBase = s.runBase ∧
    (s.retire eop emit d).runW = s.runW ∧ (s.retire eop emit d).runH = s.runH ∧
    (s.retire eop emit d).inbox = s.inbox ∧ (s.retire eop emit d).policy = s.policy ∧
    (s.retire eop emit d).draws = s.draws := by
  obtain ⟨ex, eu, _, _, _, edb, emw, emh, erb, erw, erh, _, ei, ep, ed, _⟩ := emitPhase_frame s emit d
  obtain ⟨fx, fu, fdb, fmw, fmh, frb, frw, frh, _, _, _, _, _, fi, fp, fd⟩ := endPhase_frame (s.emitPhase emit d) eop
  exact ⟨fx.trans ex, fu.trans eu, fdb.trans edb, fmw.trans emw, fmh.trans emh, frb.trans erb, frw.trans erw,
    frh.trans erh, fi.trans ei, fp.trans ep, fd.trans ed⟩

/-- The flags change no register (R110, R111). -/
@[simp] theorem retire_reg (s : State) (eop emit : Bool) (d j : RegIdx) : (s.retire eop emit d).reg j = s.reg j := by
  simp only [State.reg, (retire_frame s eop emit d).1]

end Sys2Proof.Machine
end

