-- ==== Sys2Proof/Laws/Float.lean ====
section
/-! SUPPORT. What `roundMag` does: it rounds to the nearest binary32 magnitude, ties to even, and overflows to infinity
(spec/41_decoder_alu.md R112); and what a result word is made of. -/

namespace Sys2Proof.Machine

open Sys2Proof

/-! ## The magnitudes -/

/-- The magnitude the 31 low bits `b` of a finite datum stand for, in units of 2^-149. -/
def magValue (b : Nat) : Nat := if b / 2 ^ 23 = 0 then b else (2 ^ 23 + b % 2 ^ 23) * 2 ^ (b / 2 ^ 23 - 1)

/-- A significand `q` on the grid of quantum `2^k`; the bound 2^24 itself, where a rounding carries, included. -/
theorem magValue_grid {k q : Nat} (hk : k = 0 ∨ 2 ^ 23 ≤ q) (hq : q ≤ 2 ^ 24) :
    magValue (k * 2 ^ 23 + q) = q * 2 ^ k := by
  unfold magValue
  rcases Nat.lt_or_ge q (2 ^ 23) with h | h
  · have hk0 : k = 0 := by omega
    subst hk0
    rw [if_pos (by omega)]
    omega
  · rcases Nat.lt_or_ge q (2 ^ 24) with h' | h'
    · have hd : (k * 2 ^ 23 + q) / 2 ^ 23 = k + 1 := by omega
      have hm : (k * 2 ^ 23 + q) % 2 ^ 23 = q - 2 ^ 23 := by omega
      rw [hd, hm, if_neg (by omega), Nat.add_sub_cancel, Nat.add_sub_cancel' h]
    · have hq' : q = 2 ^ 24 := by omega
      subst hq'
      have hd : (k * 2 ^ 23 + 2 ^ 24) / 2 ^ 23 = k + 2 := by omega
      have hm : (k * 2 ^ 23 + 2 ^ 24) % 2 ^ 23 = 0 := by omega
      rw [hd, hm, if_neg (by omega), show k + 2 - 1 = k + 1 from rfl, Nat.pow_succ]
      ring

/-- Every magnitude is a significand on a grid. -/
theorem magValue_split (b : Nat) : ∃ k q, b = k * 2 ^ 23 + q ∧ (k = 0 ∨ 2 ^ 23 ≤ q) ∧ q < 2 ^ 24 := by
  rcases Nat.lt_or_ge b (2 ^ 23) with h | h
  · exact ⟨0, b, by omega, .inl rfl, by omega⟩
  · exact ⟨b / 2 ^ 23 - 1, 2 ^ 23 + b % 2 ^ 23, by omega, .inr (by omega), by omega⟩

theorem magValue_lt_succ (b : Nat) : magValue b < magValue (b + 1) := by
  obtain ⟨k, q, rfl, hk, hq⟩ := magValue_split b
  rw [magValue_grid hk (by omega), Nat.add_assoc, magValue_grid (hk.imp_right (by omega)) (by omega)]
  exact Nat.mul_lt_mul_of_pos_right (Nat.lt_succ_self q) (Nat.two_pow_pos k)

/-- The order of the magnitudes is the order of their bits. -/
theorem magValue_strictMono : StrictMono magValue := strictMono_nat_of_lt_succ magValue_lt_succ

/-- The same in units of any positive quantum. -/
theorem magValue_mul_strictMono {Q : Nat} (hQ : 0 < Q) : StrictMono fun b => magValue b * Q :=
  fun _ _ h => Nat.mul_lt_mul_of_pos_right (magValue_strictMono h) hQ

/-! ## One rounding -/

/-- The grid `roundMag` rounds on: its quantum is `2^shift`, and its significand has at most 24 bits. -/
theorem roundMag_grid (m : Nat) : ∃ k q r, m = q * 2 ^ (k + 149) + r ∧ r < 2 ^ (k + 149) ∧ (k = 0 ∨ 2 ^ 23 ≤ q) ∧
    q < 2 ^ 24 ∧ roundMag m = min (k * 2 ^ 23 +
      (if 2 * r < 2 ^ (k + 149) then q else if 2 ^ (k + 149) < 2 * r then q + 1 else q + q % 2)) infBits := by
  obtain ⟨k, hk⟩ : ∃ k, max (m.log2 - 23) 149 = k + 149 := ⟨max (m.log2 - 23) 149 - 149, by omega⟩
  have hpos := Nat.two_pow_pos (k + 149)
  refine ⟨k, m / 2 ^ (k + 149), m % 2 ^ (k + 149), (Nat.div_add_mod' m _).symm, Nat.mod_lt _ hpos, ?_, ?_, ?_⟩
  · rcases Nat.eq_zero_or_pos k with h | h
    · exact .inl h
    · right
      have hm : m ≠ 0 := fun h0 => by subst h0; simp at hk; omega
      rw [Nat.le_div_iff_mul_le hpos, ← Nat.pow_add]
      exact le_trans (Nat.pow_le_pow_right (by omega) (by omega)) (Nat.log2_self_le hm)
  · rw [Nat.div_lt_iff_lt_mul hpos, ← Nat.pow_add]
    exact lt_of_lt_of_le Nat.lt_log2_self (Nat.pow_le_pow_right (by omega) (by omega))
  · simp only [roundMag, roundShift, hk, Nat.add_sub_cancel]

/-- Rounding on an increasing scale: `f` is the place at or below `m`, and the choice of `roundMag` is the nearest place,
the even one in a tie. -/
theorem nearest_place {V : Nat → Nat} (hV : StrictMono V) {f q r P m : Nat} (hm : m = V f + r) (hr : r < P)
    (hP : V (f + 1) = V f + P) (hq : f % 2 = q % 2) (b : Nat) :
    ∀ c, c = f + (if 2 * r < P then 0 else if P < 2 * r then 1 else q % 2) →
      |(V c : Int) - m| ≤ |(V b : Int) - m| ∧ (|(V c : Int) - m| = |(V b : Int) - m| → b ≠ c → c % 2 = 0) := by
  intro c hc
  have hb : b = f ∨ b = f + 1 ∨ V b < V f ∨ V (f + 1) < V b := by
    rcases Nat.lt_trichotomy b f with h | h | h
    · exact .inr (.inr (.inl (hV h)))
    · exact .inl h
    · rcases Nat.lt_or_ge (f + 1) b with h' | h'
      · exact .inr (.inr (.inr (hV h')))
      · exact .inr (.inl (by omega))
  have hc' : (c = f ∧ 2 * r ≤ P ∧ (2 * r = P → f % 2 = 0)) ∨ (c = f + 1 ∧ P ≤ 2 * r ∧ (2 * r = P → f % 2 = 1)) := by
    split at hc
    · exact .inl ⟨by omega, by omega, by omega⟩
    · split at hc
      · exact .inr ⟨by omega, by omega, by omega⟩
      · rcases Nat.mod_two_eq_zero_or_one q with h | h
        · exact .inl ⟨by omega, by omega, by omega⟩
        · exact .inr ⟨by omega, by omega, by omega⟩
  clear hc
  simp only [abs_eq_max_neg]
  rcases hc' with ⟨rfl, h1, h2⟩ | ⟨rfl, h1, h2⟩ <;> rcases hb with rfl | rfl | hb | hb <;> (try rw [hP] at *) <;>
    refine ⟨by omega, fun h hne => ?_⟩ <;> omega

theorem pos_of_eq_two_pow {T n : Nat} (h : T = 2 ^ n) : 0 < T := by rw [h]; exact Nat.two_pow_pos n

theorem le_of_eq_two_pow {T n k : Nat} (h : T = 2 ^ n) (hk : k ≤ n) : 2 ^ k ≤ T := by
  rw [h]; exact Nat.pow_le_pow_right (by omega) hk

theorem four_mul_le_two_pow {T n k : Nat} (h : T = 2 ^ n) (hk : n + 2 ≤ k) : 4 * T ≤ 2 ^ k := by
  rw [h, show 4 = 2 ^ 2 from rfl, ← Nat.pow_add]
  exact Nat.pow_le_pow_right (by omega) (by omega)

/-- Where the bound of overflow, the largest finite number and half its quantum, lies on the grid of `roundMag`. -/
theorem overflow_grid {k q r m T : Nat} (hT : T = 2 ^ (252 + 149)) (hm : m = q * 2 ^ (k + 149) + r)
    (hr : r < 2 ^ (k + 149)) (hk : k = 0 ∨ 2 ^ 23 ≤ q) (hq : q < 2 ^ 24) :
    (2 ^ 25 - 1) * T ≤ m ↔ 254 ≤ k ∨ (k = 253 ∧ q = 2 ^ 24 - 1 ∧ 2 ^ (k + 149) ≤ 2 * r) := by
  have hpos : 0 < T := pos_of_eq_two_pow hT
  rcases Nat.lt_trichotomy k 253 with h | h | h
  · have h1 : 2 ^ (k + 149) ≤ T := le_of_eq_two_pow hT (by omega)
    have h2 : (q + 1) * 2 ^ (k + 149) ≤ 2 ^ 24 * T := Nat.mul_le_mul hq h1
    rw [Nat.add_mul, Nat.one_mul] at h2
    clear hT
    generalize q * 2 ^ (k + 149) = X at *
    omega
  · have h1 : 2 ^ (k + 149) = 2 * T := by rw [hT, h, ← Nat.pow_succ']
    rw [h1] at hm hr ⊢
    clear hT
    rcases Nat.lt_or_ge q (2 ^ 24 - 1) with hlt | hge
    · have h2 : (q + 1) * (2 * T) ≤ (2 ^ 24 - 1) * (2 * T) := Nat.mul_le_mul_right _ hlt
      rw [Nat.add_mul, Nat.one_mul] at h2
      generalize q * (2 * T) = X at *
      omega
    · have hq' : q = 2 ^ 24 - 1 := by omega
      subst hq'
      omega
  · have h1 : 4 * T ≤ 2 ^ (k + 149) := four_mul_le_two_pow hT (by omega)
    clear hT
    have h2 : 2 ^ 23 * (4 * T) ≤ q * 2 ^ (k + 149) := Nat.mul_le_mul (by omega) h1
    generalize q * 2 ^ (k + 149) = X at *
    omega

/-- The bound of overflow with its power of two taken out. -/
theorem overflow_bound {T : Nat} (hT : T = 2 ^ (252 + 149)) : (2 ^ 25 - 1) * 2 ^ 252 * 2 ^ 149 = (2 ^ 25 - 1) * T := by
  rw [hT, Nat.mul_assoc, Nat.pow_add]

/-- A magnitude below the largest finite number and half its quantum rounds to the nearest finite magnitude, ties to
even. -/
theorem roundMag_nearest {m : Nat} (h : m < (2 ^ 25 - 1) * 2 ^ 252 * 2 ^ 149) :
    roundMag m < infBits ∧ ∀ b : Nat,
      |((magValue (roundMag m) * 2 ^ 149 : Nat) : Int) - m| ≤ |((magValue b * 2 ^ 149 : Nat) : Int) - m| ∧
      (|((magValue (roundMag m) * 2 ^ 149 : Nat) : Int) - m| = |((magValue b * 2 ^ 149 : Nat) : Int) - m| →
        b ≠ roundMag m → roundMag m % 2 = 0) := by
  obtain ⟨k, q, r, hm, hr, hk, hq, hround⟩ := roundMag_grid m
  have hf : magValue (k * 2 ^ 23 + q) * 2 ^ 149 = q * 2 ^ (k + 149) := by
    rw [magValue_grid hk (by omega), Nat.pow_add, Nat.mul_assoc]
  have hf' : magValue (k * 2 ^ 23 + q + 1) * 2 ^ 149 = (q + 1) * 2 ^ (k + 149) := by
    rw [Nat.add_assoc, magValue_grid (hk.imp_right (by omega)) (by omega), Nat.pow_add, Nat.mul_assoc]
  have hlt : k * 2 ^ 23 + (if 2 * r < 2 ^ (k + 149) then q else if 2 ^ (k + 149) < 2 * r then q + 1 else q + q % 2) <
      infBits := by
    obtain ⟨T, hT⟩ : ∃ T, T = 2 ^ (252 + 149) := ⟨_, rfl⟩
    rw [overflow_bound hT] at h
    have hno := (overflow_grid hT hm hr hk hq).not.mp (Nat.not_le.mpr h)
    clear hf hf' hm h hround
    simp only [infBits]
    generalize 2 ^ (k + 149) = P at *
    split <;> [skip; split] <;> omega
  rw [Nat.min_eq_left hlt.le] at hround
  refine ⟨hround ▸ hlt, fun b => ?_⟩
  have hQ : 0 < 2 ^ 149 := by positivity
  generalize 2 ^ 149 = Q at *
  refine nearest_place (V := fun b => magValue b * Q) (magValue_mul_strictMono hQ) (f := k * 2 ^ 23 + q) (q := q)
    (hm.trans (by rw [hf])) hr ?_ ?_ b _ ?_
  · show magValue _ * _ = magValue _ * _ + _
    rw [hf, hf', Nat.add_mul, Nat.one_mul]
  · omega
  · rw [hround]; split <;> [skip; split] <;> omega

/-- A magnitude from that bound on rounds to infinity. -/
theorem roundMag_overflow {m : Nat} (h : (2 ^ 25 - 1) * 2 ^ 252 * 2 ^ 149 ≤ m) : roundMag m = infBits := by
  obtain ⟨k, q, r, hm, hr, hk, hq, hround⟩ := roundMag_grid m
  obtain ⟨T, hT⟩ : ∃ T, T = 2 ^ (252 + 149) := ⟨_, rfl⟩
  rw [overflow_bound hT] at h
  have hyes := (overflow_grid hT hm hr hk hq).mp h
  rw [hround]
  apply Nat.min_eq_right
  clear hm h hround
  simp only [infBits]
  generalize 2 ^ (k + 149) = P at *
  split <;> [skip; split] <;> omega

theorem roundMag_le (m : Nat) : roundMag m ≤ infBits := Nat.min_le_right _ _

/-! ## Words -/

/-- The exponent and fraction bits of a word. -/
def magBits (w : Word) : Nat := w.toNat % 2 ^ 31

theorem magBits_lt (w : Word) : magBits w < 2 ^ 31 := Nat.mod_lt _ (by decide)

theorem exponent_toNat (w : Word) : (w.extractLsb' 23 8).toNat = magBits w / 2 ^ 23 := by
  simp only [magBits, BitVec.extractLsb'_toNat, Nat.shiftRight_eq_div_pow]
  omega

theorem fraction_toNat (w : Word) : (w.extractLsb' 0 23).toNat = magBits w % 2 ^ 23 := by
  simp only [magBits, BitVec.extractLsb'_toNat, Nat.shiftRight_eq_div_pow]
  omega

/-- The magnitude through the exponent and the fraction. -/
theorem magValue_fields (w : Word) :
    magValue (magBits w) = if magBits w / 2 ^ 23 = 0 then magBits w % 2 ^ 23
      else (2 ^ 23 + magBits w % 2 ^ 23) * 2 ^ (magBits w / 2 ^ 23 - 1) := by
  unfold magValue
  split
  · omega
  · rfl

/-- The datum of a word, by the order of its exponent and fraction bits. -/
theorem ofWord_eq (w : Word) :
    F32.ofWord w = if infBits < magBits w then .nan else if magBits w = infBits then .inf (w.getLsbD 31)
      else .finite (w.getLsbD 31) (magValue (magBits w)) := by
  have := magBits_lt w
  simp only [F32.ofWord, exponent_toNat, fraction_toNat, magValue_fields, infBits]
  by_cases h : magBits w / 2 ^ 23 = 255
  · rw [if_pos h]
    by_cases h' : magBits w % 2 ^ 23 = 0
    · rw [if_pos h', if_neg (by omega), if_pos (by omega)]
    · rw [if_neg h', if_pos (by omega)]
  · rw [if_neg h, if_neg (c := 0x7F800000 < magBits w) (by omega), if_neg (c := magBits w = 0x7F800000) (by omega)]
    split <;> rfl

theorem withSign_toNat {b : Nat} (n : Bool) (hb : b < 2 ^ 31) :
    (withSign n b).toNat = (if n then 2 ^ 31 else 0) + b := by
  rw [withSign, BitVec.toNat_ofNat]
  cases n <;> simp <;> omega

/-- The parts of a result word. -/
theorem magBits_withSign {b : Nat} (n : Bool) (hb : b < 2 ^ 31) : magBits (withSign n b) = b := by
  rw [magBits, withSign_toNat n hb]
  cases n <;> simp <;> omega

theorem sign_withSign {b : Nat} (n : Bool) (hb : b < 2 ^ 31) : (withSign n b).getLsbD 31 = n := by
  rw [← word_msb, BitVec.msb_eq_decide, withSign_toNat n hb]
  cases n
  · simp
    omega
  · simp

end Sys2Proof.Machine
end

