-- ==== Sys2Proof/Laws/Step.lean ====
section
/-! SUPPORT. The inversions of a step: what an instruction, a turn of the core, a host operation and a step can do. A
later proof splits these cases instead of unfolding `exec` or `step`. -/

namespace Sys2Proof.Machine

open Sys2Proof

/-- The states an operation can leave for the flags: the state itself, or one register written by one of the five
writing operations. -/
def Operated (i : Instr) (s s₁ : State) : Prop :=
  s₁ = s ∨ (i.opcode ∈ [1, 2, 3, 6, 12] ∧ ∃ v, s₁ = s.setReg i.dest v)

/-- What an instruction can do: its operation, then its flags. -/
theorem exec_cases {i : Instr} {s t : State} (h : exec i s = .next t) :
    ∃ s₁, Operated i s s₁ ∧ t = s₁.retire i.eop i.emit i.dest := by
  cases i
  case fadd | fsub | fmul | i2f | copy =>
    injection h with h; exact ⟨_, .inr ⟨by simp [Instr.opcode], _, rfl⟩, h.symm⟩
  all_goals injection h with h; exact ⟨s, .inl rfl, h.symm⟩

/-- An enabled core step fetches the word of its slot. -/
theorem fetch_of_running {s : State} (hr : s.fsm = .running) (h : s.pc < Config.ucodeWords) :
    s.fetch = some (decode s.ucode[s.pc]) := by
  simp [CoreState.fetch, CoreState.busy, CoreState.fetchWord, hr, h]

/-- When a core step is enabled, and which instruction it executes. -/
theorem fetch_eq_some {s : CoreState} {i : Instr} (h : s.fetch = some i) :
    s.fsm = .running ∧ ∃ hp : s.pc < Config.ucodeWords, i = decode s.ucode[s.pc] := by
  simp only [CoreState.fetch, CoreState.busy, CoreState.fetchWord] at h
  by_cases hb : s.fsm = .running
  · by_cases hp : s.pc < Config.ucodeWords
    · simp only [hb, hp, beq_self_eq_true, if_true, Vector.getElem?_eq_getElem, Option.map_some, Option.some.injEq] at h
      exact ⟨hb, hp, h.symm⟩
    · simp [hb, hp] at h
  · simp [hb] at h

/-- What a turn of the core can do. -/
theorem coreTurn_cases {s t : State} (h : coreTurn s = .next t) :
    (∃ i, s.fetch = some i ∧ exec i s = .next t) ∨ (s.fetch = none ∧ t = s) := by
  unfold coreTurn at h
  split at h
  · rename_i i hi
    exact .inl ⟨i, hi, h⟩
  · rename_i hn
    exact .inr ⟨hn, by injection h with h; exact h.symm⟩

/-- What a write to CTL can do. -/
theorem commandCtl_cases (s : State) (v : Word) :
    s.commandCtl v = s ∨
    (v.getLsbD 0 = true ∧ (s.busy = false ∨ s.policy.startWhileBusy = .restart) ∧ s.commandCtl v = s.startRun) := by
  unfold State.commandCtl
  split
  · rename_i hv
    split
    · split
      · exact .inl rfl
      · rename_i hp
        exact .inr ⟨hv, .inr hp, rfl⟩
    · rename_i hb
      exact .inr ⟨hv, .inl (by simpa using hb), rfl⟩
  · exact .inl rfl

/-- What a host read does: one word on the host port, and at most one free value. -/
theorem hostRead_cases (s : State) (off : Nat) : ∃ v n, s.hostRead off = (s.putReadData off v).useDraws n := by
  unfold State.hostRead
  split
  · exact ⟨_, 0, rfl⟩
  · exact ⟨_, 1, rfl⟩

/-- The targets of the address map, back from the map (R42), for an aligned offset of the window. -/
theorem hostTarget_inv {off : Nat} (h4 : off % 4 = 0) :
    (hostTarget off = .ctl → off = 0) ∧
    (∀ n, hostTarget off = .regfile n → off = 0x400 + 4 * n.toNat) ∧
    (∀ k, hostTarget off = .microcode k → off = 0x800 + 4 * k.val) := by
  unfold hostTarget
  repeat' split
  all_goals try (simp; done)
  · simp_all
  · refine ⟨by simp, fun n hn => ?_, by simp⟩
    injection hn with hn
    subst hn
    simp only [BitVec.toNat_ofNat, Config.regIndexBits]
    omega
  · refine ⟨by simp, by simp, fun k hk => ?_⟩
    injection hk with hk
    subst hk
    simp only [Fin.ofNat, Config.ucodeWords]
    omega

/-- What a host write that is not refused can do. -/
theorem hostWrite_cases {off : Nat} {v : Word} {s t : State} (h4 : off % 4 = 0) (h : hostWrite off v s = .next t) :
    t = s ∨
    (off = 0 ∧ v.getLsbD 0 = true ∧ (s.busy = false ∨ s.policy.startWhileBusy = .restart) ∧ t = s.startRun) ∨
    t = s.setDmaBase v ∨ t = s.setMeshW v ∨ t = s.setMeshH v ∨
    (∃ n : RegIdx, off = 0x400 + 4 * n.toNat ∧ s.busy = false ∧ t = s.setReg n v) ∨
    (∃ k : Fin Config.ucodeWords, off = 0x800 + 4 * k.val ∧ s.busy = false ∧ t = s.setUcode k v) := by
  obtain ⟨hc, hr, hm⟩ := hostTarget_inv h4
  unfold hostWrite at h
  split at h
  case h_1 hg =>
    injection h with h
    rcases commandCtl_cases s v with hs | ⟨hv, hb, hs⟩
    · exact .inl (h.symm.trans hs)
    · exact .inr (.inl ⟨hc hg, hv, hb, h.symm.trans hs⟩)
  case h_2 => injection h with h; exact .inr (.inr (.inl h.symm))
  case h_3 => injection h with h; exact .inr (.inr (.inr (.inl h.symm)))
  case h_4 => injection h with h; exact .inr (.inr (.inr (.inr (.inl h.symm))))
  case h_8 n hg =>
    split at h
    · cases h
    · rename_i hb
      injection h with h
      exact .inr (.inr (.inr (.inr (.inr (.inl ⟨n, hr n hg, by simpa using hb, h.symm⟩)))))
  case h_9 k hg =>
    split at h
    · cases h
    · rename_i hb
      injection h with h
      exact .inr (.inr (.inr (.inr (.inr (.inr ⟨k, hm k hg, by simpa using hb, h.symm⟩)))))
  all_goals injection h with h; exact .inl h.symm

/-- What a host operation that is not refused can do. -/
theorem hostOp_cases {op : HostOp} {s t : State} (h : hostOp op s = .next t) :
    op.WellFormed ∧
    ((∃ off v n, op = .read Config.wordBytes off ∧ t = (s.putReadData off v).useDraws n) ∨
     (∃ off v, op = .write Config.wordBytes off v ∧ hostWrite off v s = .next t)) := by
  unfold hostOp at h
  split at h
  · rename_i hw
    split at h
    · rename_i ha
      split at h
      · rename_i hi
        refine ⟨⟨hw, ha, hi⟩, ?_⟩
        cases op with
        | read w off =>
          injection h with h
          obtain ⟨v, n, hv⟩ := hostRead_cases s off
          have hw' : w = Config.wordBytes := hw
          exact .inl ⟨off, v, n, by rw [hw'], h.symm.trans hv⟩
        | write w off v =>
          have hw' : w = Config.wordBytes := hw
          exact .inr ⟨off, v, by rw [hw'], h⟩
      · cases h
    · cases h
  · cases h

/-- What a step can do (R7). -/
theorem step_cases {s t : State} (h : step s = .next t) :
    (s.inbox = [] ∧ coreTurn s = .next t) ∨
    (∃ rest, s.inbox = .core :: rest ∧ coreTurn s.takeTurn = .next t) ∨
    (∃ rest, s.inbox = .reset :: rest ∧ t = s.takeTurn.resetInput) ∨
    (∃ op rest, s.inbox = .host op :: rest ∧ hostOp op s.takeTurn = .next t) := by
  unfold step at h
  split at h
  · rename_i hi
    exact .inl ⟨hi, h⟩
  · rename_i rest hi
    exact .inr (.inl ⟨rest, hi, h⟩)
  · rename_i rest hi
    injection h with h
    exact .inr (.inr (.inl ⟨rest, hi, h.symm⟩))
  · rename_i op rest hi
    exact .inr (.inr (.inr ⟨op, rest, hi, h⟩))

end Sys2Proof.Machine
end

