-- ==== Sys2Proof/Laws/Host.lean ====
section
/-! SUPPORT. The address map and the host operations: where each window leads, and what an aligned word access of the
window is. -/

namespace Sys2Proof.Machine

open Sys2Proof

/-- An aligned word read of the window. -/
theorem hostOp_read {off : Nat} (s : State) (h4 : off % 4 = 0) (hw : off < 0x1000) :
    hostOp (.read 4 off) s = .next (s.hostRead off) := by
  rw [hostOp.eq_def, if_pos (show HostOp.WordWide (.read 4 off) from rfl), if_pos (show HostOp.Aligned (.read 4 off) from h4),
    if_pos (show HostOp.InWindow (.read 4 off) from hw)]

/-- An aligned word write of the window. -/
theorem hostOp_write {off : Nat} (v : Word) (s : State) (h4 : off % 4 = 0) (hw : off < 0x1000) :
    hostOp (.write 4 off v) s = hostWrite off v s := by
  rw [hostOp.eq_def, if_pos (show HostOp.WordWide (.write 4 off v) from rfl), if_pos (show HostOp.Aligned (.write 4 off v) from h4),
    if_pos (show HostOp.InWindow (.write 4 off v) from hw)]

/-- The REGFILE window (R42). -/
theorem hostTarget_regfile (n : RegIdx) : hostTarget (0x400 + 4 * n.toNat) = .regfile n := by
  have hn := regIdx_toNat_lt n
  unfold hostTarget
  repeat' split
  all_goals first
    | omega
    | (congr 1; apply BitVec.eq_of_toNat_eq; simp only [BitVec.toNat_ofNat, Config.regIndexBits]; omega)

/-- The MICROCODE window (R42). -/
theorem hostTarget_microcode (k : Fin Config.ucodeWords) : hostTarget (0x800 + 4 * k.val) = .microcode k := by
  have hk := ucodeIdx_lt k
  unfold hostTarget
  repeat' split
  all_goals first
    | omega
    | (congr 1; apply Fin.ext; show (0x800 + 4 * k.val - 0x800) / 4 % 512 = k.val; omega)

/-- The unmapped offsets of the window (R42, R44). -/
theorem hostTarget_unmapped {off : Nat}
    (h : off = 0x10 ∨ (0x20 ≤ off ∧ off < 0x400) ∨ (0x600 ≤ off ∧ off < 0x800)) : hostTarget off = .unmapped := by
  unfold hostTarget
  repeat' split
  all_goals first | rfl | omega

/-- A read that has a value (R84, R89, R91). -/
theorem hostRead_of_some {s : State} {off : Nat} {v : Word} (h : s.readValue off = some v) :
    s.hostRead off = s.putReadData off v := by rw [State.hostRead, h]

/-- A read that has none (R88, R94, R96). -/
theorem hostRead_of_none {s : State} {off : Nat} (h : s.readValue off = none) :
    s.hostRead off = (s.putReadData off s.freeWord).useDraws 1 := by rw [State.hostRead, h]

end Sys2Proof.Machine
end

