-- ==== Sys2Proof/Laws/PerInstr.lean ====
section
/-! SUPPORT. The per-instruction family: the encoding of every instruction writes the reserved bits 29:25 as 0
(spec/30_encoding.md R61, R65). -/

namespace Sys2Proof.Laws.ReservedBitsZero

open Sys2Proof

/-- R65: bits 29:25 of the encoded word are 0. -/
def Statement (i : Instr) : Prop := (encode i).extractLsb' 25 5 = 0

/-- The fields of an instruction never reach bits 29:25. -/
theorem toWord_reserved (f : Fields) : f.toWord.extractLsb' 25 5 = 0 := by
  apply BitVec.eq_of_getLsbD_eq
  intro k hk
  simp only [Fields.toWord, BitVec.getLsbD_extractLsb', BitVec.getLsbD_append]
  interval_cases k <;> simp

theorem nop (eop emit : Bool) (a b d : RegIdx) : Statement (.nop eop emit a b d) := toWord_reserved _

theorem fadd (eop emit : Bool) (a b d : RegIdx) : Statement (.fadd eop emit a b d) := toWord_reserved _

theorem fsub (eop emit : Bool) (a b d : RegIdx) : Statement (.fsub eop emit a b d) := toWord_reserved _

theorem fmul (eop emit : Bool) (a b d : RegIdx) : Statement (.fmul eop emit a b d) := toWord_reserved _

theorem undef4 (eop emit : Bool) (a b d : RegIdx) : Statement (.undef4 eop emit a b d) := toWord_reserved _

theorem undef5 (eop emit : Bool) (a b d : RegIdx) : Statement (.undef5 eop emit a b d) := toWord_reserved _

theorem i2f (eop emit : Bool) (a b d : RegIdx) : Statement (.i2f eop emit a b d) := toWord_reserved _

theorem undef7 (eop emit : Bool) (a b d : RegIdx) : Statement (.undef7 eop emit a b d) := toWord_reserved _

theorem undef8 (eop emit : Bool) (a b d : RegIdx) : Statement (.undef8 eop emit a b d) := toWord_reserved _

theorem undef9 (eop emit : Bool) (a b d : RegIdx) : Statement (.undef9 eop emit a b d) := toWord_reserved _

theorem undef10 (eop emit : Bool) (a b d : RegIdx) : Statement (.undef10 eop emit a b d) := toWord_reserved _

theorem undef11 (eop emit : Bool) (a b d : RegIdx) : Statement (.undef11 eop emit a b d) := toWord_reserved _

theorem copy (eop emit : Bool) (a b d : RegIdx) : Statement (.copy eop emit a b d) := toWord_reserved _

theorem undef13 (eop emit : Bool) (a b d : RegIdx) : Statement (.undef13 eop emit a b d) := toWord_reserved _

theorem undef14 (eop emit : Bool) (a b d : RegIdx) : Statement (.undef14 eop emit a b d) := toWord_reserved _

theorem undef15 (eop emit : Bool) (a b d : RegIdx) : Statement (.undef15 eop emit a b d) := toWord_reserved _

end Sys2Proof.Laws.ReservedBitsZero
end

