-- ==== Sys2Proof/Tests/Slice0.lean ====
section
/-! SUPPORT. Tests of the model. Expected values come from the examples of spec/30_encoding.md section 6, from the rules'
own examples and from the vectors of spec/95_test_vectors.md (named by their id); the words of the remaining opcodes are
written out by hand from spec/30_encoding.md R61 and R63. The last section holds one witness for each statement that has
hypotheses. -/

-- One kernel evaluation at a time: each takes a thread with a large stack.
set_option Elab.async false

namespace Sys2Proof.Tests

open Sys2Proof Sys2Proof.Machine Sys2Proof.Spec

/-! ## Helpers -/

/-- A machine after reset whose external memory is big-endian. -/
def blank : State := { State.reset with policy := { startWhileBusy := .ignore, meshOrder := .rowMajor, dmaByteOrder := .big } }

/-- Registers and slots (from slot 0) loaded by hand. -/
def loaded (regs : List (RegIdx × Word)) (prog : List Word) : State :=
  let s := regs.foldl (fun s r => s.setReg r.1 r.2) blank
  { s with ucode := prog.zipIdx.foldl (fun u p => u.setIfInBounds p.2 p.1) s.ucode }

/-- The state of the F vectors: RUNNING, `total = 1`, `run_base = 0x10`, `idx = 0`, counters 0. -/
def running (regs : List (RegIdx × Word)) (prog : List Word) : State :=
  { loaded regs prog with fsm := .running, runBase := 0x10 }

/-- A field of the next state, if there is one. -/
def view {α : Type} (f : State → α) : Host.Outcome State Fault Refusal → Option α
  | .next t => some (f t)
  | _ => none

/-- The name of the refusal, if there is one. -/
def refusal : Host.Outcome State Fault Refusal → Option Refusal
  | .refused r => some r
  | _ => none

/-- The word at a byte address of a big-endian memory. -/
def wordAt (a : Nat) (s : State) : Option (List Byte) := [a, a + 1, a + 2, a + 3].mapM s.mem.read

/-! ## WellFormed: each check refuses an ill-formed term -/

-- R200: an emitting instruction with DEST above 124; one without the flag is not concerned.
theorem test_wf_emit_past_124 : ¬ (Instr.nop false true 0 0 125).WellFormed := by decide
theorem test_wf_emit_at_124 : (Instr.nop true true 0 0 124).WellFormed := by decide
theorem test_wf_no_emit_125 : (Instr.copy false false 0 0 125).WellFormed := by decide
-- R43 (vector H-17): a byte write; R43: an unaligned word; R44: the first offset past the window.
theorem test_wf_byte_access : ¬ (HostOp.write 1 0x401 0).WordWide := by decide
theorem test_wf_unaligned : ¬ (HostOp.read 4 0x402).Aligned := by decide
theorem test_wf_outside_window : ¬ (HostOp.read 4 0x1000).InWindow := by decide
theorem test_wf_last_word : (HostOp.write 4 0xFFC 0).WellFormed := by decide

/-! ## Decoding: every constructor from a word written out from the encoding -/

theorem test_decode_nop : decode 0xC0000003 = .nop true true 0 0 3 := by decide
theorem test_decode_fadd : decode 0xC00C2083 = .fadd true true 3 4 3 := by decide
theorem test_decode_fsub : decode 0x0020490B = .fsub false false 8 9 11 := by decide
theorem test_decode_fmul : decode 0x0020498A = .fmul false false 8 9 10 := by decide
theorem test_decode_undef4 : decode 0x00000200 = .undef4 false false 0 0 0 := by decide
-- n e rrrrr aaaaaaa bbbbbbb oooo ddddddd
theorem test_decode_undef5 : decode 0b0_1_00000_0000001_0000010_0101_0000011#32 = .undef5 false true 1 2 3 := by decide
theorem test_decode_i2f : decode 0x00204B13 = .i2f false false 8 9 19 := by decide
theorem test_decode_undef7 : decode 0b1_0_00000_1000000_0000000_0111_0000001#32 = .undef7 true false 64 0 1 := by decide
theorem test_decode_undef8 : decode 0b0_0_00000_0000000_1000000_1000_1000000#32 = .undef8 false false 0 64 64 := by decide
theorem test_decode_undef9 : decode 0b0_0_11111_0000100_0001000_1001_0010000#32 = .undef9 false false 4 8 16 := by decide
theorem test_decode_undef10 : decode 0b1_1_00000_0000000_0000000_1010_0000000#32 = .undef10 true true 0 0 0 := by decide
theorem test_decode_undef11 : decode 0b0_0_00000_0000000_0000001_1011_0000000#32 = .undef11 false false 0 1 0 := by decide
theorem test_decode_copy : decode 0x00200613 = .copy false false 8 0 19 := by decide
theorem test_decode_undef13 : decode 0b0_1_00000_1111111_0000000_1101_1111111#32 = .undef13 false true 127 0 127 := by decide
theorem test_decode_undef14 : decode 0b0_0_00000_0000000_1111111_1110_0000000#32 = .undef14 false false 0 127 0 := by decide
theorem test_decode_undef15 : decode 0xFFFFFFFF = .undef15 true true 127 127 127 := by decide
-- E-5: only RSV set; E-7: the fields a NOP ignores.
theorem test_decode_rsv_ignored : decode 0x3E000000 = .nop false false 0 0 0 := by decide
theorem test_decode_nop_fields : decode 0x01FFF87F = .nop false false 127 127 127 := by decide
-- spec/30_encoding.md section 6, `fadd r3, r4 -> r3 +emit +end`.
theorem test_encode_fadd : encode (.fadd true true 3 4 3) = 0xC00C2083 := by decide
theorem test_table_word : decodeTableWord 32 0x000C2083 = some (.fadd false false 3 4 3) := by decide
theorem test_table_word_too_long : decodeTableWord 40 0x000C2083 = none := by decide

/-! ## Numerics (the A vectors) -/

-- A-1, A-3 to A-9, A-11, A-12: exact, overflow, infinities, zeros, ties, gradual underflow, a NaN operand.
theorem test_fadd_vectors :
    [f32Add 0x40400000 0x41100000, f32Add 0x7F7FFFFF 0x7F7FFFFF, f32Add 0x00000000 0x80000000, f32Add 0x80000000 0x80000000, f32Add 0x3F800000 0x33800000,
      f32Add 0x3F800000 0x33800001, f32Add 0x3F800001 0x33800000, f32Add 0x00800000 0x80000001] =
    [0x41400000, 0x7F800000, 0x00000000, 0x80000000, 0x3F800000, 0x3F800001, 0x3F800002, 0x007FFFFF] ∧
    (F32.ofWord 0x7F800000).add (F32.ofWord 0xFF800000) = .someNaN ∧
    (F32.ofWord 0x7FC00000).add (F32.ofWord 0x3F800000) = .someNaN := by decide +kernel
-- A-14 to A-18: the order of the operands, equal operands, infinities, zeros, gradual underflow.
theorem test_fsub_vectors :
    [f32Sub 0x40400000 0x41100000, f32Sub 0x3F800000 0x3F800000, f32Sub 0x80000000 0x80000000,
      f32Sub 0x00800000 0x00000001] = [0xC0C00000, 0x00000000, 0x00000000, 0x007FFFFF] ∧
    (F32.ofWord 0x7F800000).add (F32.ofWord 0x7F800000).negate = .someNaN := by decide +kernel
-- A-20 to A-27: signs, zero times infinity, overflow, subnormal results, ties, an inexact product.
theorem test_fmul_vectors :
    [f32Mul 0xC0000000 0xC0400000, f32Mul 0xBF800000 0x00000000, f32Mul 0x7F7FFFFF 0x40000000,
      f32Mul 0x00800000 0x3F000000, f32Mul 0x00000001 0x3F000000, f32Mul 0x00000003 0x3F000000,
      f32Mul 0x3F800001 0x3F800001] =
    [0x40C00000, 0x80000000, 0x7F800000, 0x00400000, 0x00000000, 0x00000002, 0x3F800002] ∧
    (F32.ofWord 0x00000000).mul (F32.ofWord 0x7F800000) = .someNaN := by decide +kernel
-- A-28, A-31 to A-34, A-36 to A-40.
theorem test_i2f_vectors :
    [0x00000000, 0xFFFFFFFF, 0x80000000, 0x7FFFFFFF, 0x01000001, 0x01000003, 0xFEFFFFFF, 0x7FFFFFBF, 0x7FFFFFC0,
      0x3F800000].map i32ToF32 =
    [0x00000000, 0xBF800000, 0xCF000000, 0x4F000000, 0x4B800000, 0x4B800002, 0xCB800000, 0x4EFFFFFF, 0x4F000000,
      0x4E7E0000] := by decide +kernel

/-! ## One step of each instruction -/

-- R103: `nop` at `pc = 7` sets `pc = 8`.
theorem test_nop_step : view (·.pc) (step { running [] [] with pc := 7 }) = some 8 := by decide +kernel
-- F-5: the emission sees the sum; the destination is source A.
theorem test_fadd_emits_the_sum :
    view (wordAt 0x10) (step (running [(3, 0x3FC00000), (4, 0x3E800000)] [0xC00C2083])) =
      some (some [0x3F, 0xE0, 0x00, 0x00]) := by decide +kernel
-- A-47: the destination is source B.
theorem test_fsub_destination_is_source_b :
    view (fun t => (t.reg 4, t.reg 3)) (exec (.fsub false false 3 4 4) (running [(3, 0x41100000), (4, 0x40400000)] [])) =
      some (0x40C00000, 0x41100000) := by decide +kernel
-- R106: 3.0 times 2.5 is 7.5.
theorem test_fmul_step :
    view (·.reg 10) (step (running [(8, 0x40400000), (9, 0x40200000)] [0x0020498A])) = some 0x40F00000 := by decide +kernel
-- E-12: SRCB set on I2F is ignored.
theorem test_i2f_ignores_srcb :
    view (·.reg 19) (step (running [(8, 0x00000007), (9, 0xFFFFFFFF)] [0x00204B13])) = some 0x40E00000 := by decide +kernel
-- A-41: a signalling NaN is copied bit-exactly.
theorem test_copy_nan :
    view (·.reg 5) (step (running [(3, 0x7FA00001)] [0x000C0605])) = some 0x7FA00001 := by decide +kernel
-- F-4: OPCODE 4 with both flags writes no register, emits and ends.
theorem test_undef4_step :
    view (fun t => (t.reg 3, t.vertices, t.fsm)) (step (running [(3, 5)] [0xC00C2203])) = some (5, 1, .done) := by
  decide +kernel
-- E-6: the emission of r127 wraps; the pass ends.
theorem test_undef15_wraps :
    view (wordAt 0x14) (step (running [(0, 0x01020304)] [0xFFFFFFFF])) = some (some [1, 2, 3, 4]) := by decide +kernel
-- A-45 and R109 for the other eight: no register written, `pc` advanced by one.
theorem test_undefined_advance :
    [Instr.undef5 false false 1 2 3, .undef7 false false 1 2 3, .undef8 false false 1 2 3, .undef9 false false 1 2 3,
      .undef10 false false 1 2 3, .undef11 false false 1 2 3, .undef13 false false 1 2 3,
      .undef14 false false 1 2 3].all
      (fun i => view (fun t => (t.pc, t.reg 3)) (exec i (running [(1, 7), (2, 8), (3, 9)] [])) = some (1, 9)) = true := by
  decide +kernel

/-! ## Emissions, passes and runs -/

-- F-1, F-2: END in slot 0 and in slot 511 completes; F-3: slot 511 without END stalls.
theorem test_F1_done : view (fun t => (t.fsm, t.irqCount, t.vertices, t.mem)) (step (running [] [0x80000000])) =
    some (.done, 1, 0, []) := by decide +kernel
theorem test_F3_stall : view (fun t => (t.fsm, t.pc, t.irqCount)) (step { running [] [] with pc := 511 }) =
    some (.running, 512, 0) := by decide +kernel
-- R111: END with `total = 2` begins the next pass.
theorem test_end_of_pass :
    view (fun t => (t.idx, t.pc, t.emitted, t.fsm)) (step { running [] [0x80000000] with runW := 1, emitted := true }) =
      some (1, 0, false, .running) := by decide +kernel
-- D-4: an emission across the top of the address space, in ascending order.
theorem test_D4_addresses :
    (List.range 4).map (emitWordAddr ({ running [] [] with runBase := 0xFFFFFFF8 } : State).emitAddr) =
      [0xFFFFFFF8, 0xFFFFFFFC, 0x00000000, 0x00000004] := by decide +kernel
-- D-3: the address wraps.
theorem test_D3_wrap : ({ running [] [] with runBase := 0xFFFFFFE0, idx := 2 } : State).emitAddr = 0 := by decide +kernel
-- P3, step 3: the second emission of a pass is a collision and a stray write.
theorem test_Z3_second_emission :
    view (fun t => (t.vertices, t.collisions, t.stray))
      (step { running [] [0x40000003] with vertices := 1, emitted := true, written := [0x10] }) = some (2, 1, 1) := by
  decide +kernel
-- R164: the counters saturate.
theorem test_saturation : view (·.vertices) (step { running [] [0x40000003] with vertices := 0xFFFFFFFF }) =
    some 0xFFFFFFFF := by decide +kernel
-- R46: the same word in the two byte orders.
theorem test_little_endian :
    (Memory.writeWord .little [] 0x40 0x11223344) = [(0x40, 0x44), (0x41, 0x33), (0x42, 0x22), (0x43, 0x11)] := by
  decide +kernel
-- M-3: idx 4 of a 3 by 2 mesh in the two orders; M-4: the total is not reduced.
theorem test_M3_row_major : ({ blank with runW := 2, runH := 1, idx := 4 } : State).point = (1, 1) := by decide +kernel
theorem test_M3_column_major :
    ({ blank with runW := 2, runH := 1, idx := 4, policy := { blank.policy with meshOrder := .columnMajor } } : State).point
      = (2, 0) := by decide +kernel
theorem test_M4_total : ({ blank with runW := 0xFFFFFFFF } : State).total = 2 ^ 32 := by decide +kernel

/-! ## Host operations (the H vectors) -/

theorem test_H4_regfile : view (·.reg 127) (hostOp (.write 4 0x5FC 0xDEADBEEF) blank) = some 0xDEADBEEF := by decide +kernel
theorem test_H13_start : view (fun t => (t.fsm, t.pc, t.busy)) (hostOp (.write 4 0x000 0xFFFFFFFF) blank) =
    some (.running, 0, true) := by decide +kernel
theorem test_H11_ignored : view (·.pc) (hostOp (.write 4 0x000 1) { running [] [] with pc := 512 }) = some 512 := by
  decide +kernel
theorem test_H12_restart :
    view (·.pc) (hostOp (.write 4 0x000 1)
      { running [] [] with pc := 512, policy := { blank.policy with startWhileBusy := .restart } }) = some 0 := by
  decide +kernel
theorem test_H14_latched : view (fun t => (t.meshW, t.runW)) (hostOp (.write 4 0x008 9) { running [] [] with runW := 1 }) =
    some (9, 1) := by decide +kernel
theorem test_H15_refused : refusal (hostOp (.write 4 0x800 0x80000000) (running [] [])) =
    some (.hostWriteDuringRun 0x800) := by decide +kernel
theorem test_H16_last_slot : view (·.ucode[511]) (hostOp (.write 4 0xFFC 0x80000000) blank) = some 0x80000000 := by
  decide +kernel
theorem test_H17_byte_write : refusal (hostOp (.write 1 0x401 0) blank) = some (.hostAccessWidth 1) := by decide +kernel
theorem test_H10_busy : view (·.port) (hostOp (.read 4 0x000) (running [] [])) = some [.readData 0 1] := by decide +kernel

/-! ## The interface -/

-- The first instruction after reset, `copy r0 -> r5` placed where `step` fetches.
theorem test_fetch_after_reset :
    view (·.pc) (step (State.reset.withFetchWord 32 0x00000605)) = some 1 := by decide +kernel
-- R1 of the R vectors: reset leaves a stall.
theorem test_R1_reset_leaves_a_stall :
    view (fun t => (t.fsm, t.vertices, t.irqCount)) (step { running [] [] with pc := 512, vertices := 1, inbox := [.reset] }) =
      some (.idle, 0, 0) := by decide +kernel

/-! ## Witnesses: states and operands that meet the hypotheses of the statements -/

/-- A run in progress whose instruction at `pc` has no flag, with its turn on the schedule. -/
def turn : State := { running [(3, 0x40400000)] [0x000C2083] with inbox := [.core] }

/-- A run in progress, about to end. -/
def ending : State := running [] [0xC0000003]

/-- A stalled run with host operations scheduled. -/
def stalled : State :=
  { running [] [] with pc := 512, inbox := [.host (.write 4 0x000 1), .host (.read 4 0x000), .core] }

/-- The schedule begins with a start write. -/
def starting : State := { blank with dmaBase := 0x1000, meshW := 1, inbox := [.host (.write 4 0x000 1)] }

/-- Reset arrives during a run. -/
def resetting : State := { running [] [] with pc := 3, inbox := [.reset] }

/-- A host write to a register, and one to a slot, while idle. -/
def regWrite : State := { blank with inbox := [.host (.write 4 0x5FC 7)] }
def slotWrite : State := { blank with inbox := [.host (.write 4 0xFFC 7)] }

theorem witness_StepRunsTheDecodedInstruction :
    (ending.pc < Config.ucodeWords ∧ ending.fsm = .running ∧ ending.inbox = []) ∧
    (turn.pc < Config.ucodeWords ∧ turn.fsm = .running ∧ turn.inbox = .core :: []) :=
  ⟨⟨by decide, rfl, rfl⟩, ⟨by decide, rfl, rfl⟩⟩
theorem witness_CoreDoesNothingUnlessEnabled_idle : CoreHasTurn blank ∧ blank.fsm ≠ .running := ⟨.inl rfl, by decide⟩
theorem witness_CoreDoesNothingUnlessEnabled_stalled :
    CoreHasTurn { stalled with inbox := [.core] } ∧ Config.ucodeWords ≤ stalled.pc := ⟨.inr ⟨[], rfl⟩, by decide⟩
theorem witness_ScheduledAgentActs :
    starting.inbox = .host (.write 4 0x000 1) :: [] ∧ resetting.inbox = .reset :: [] := ⟨rfl, rfl⟩
theorem witness_UndefinedOpcodesActAsNop : Instr.undef15 true true 1 2 3 ∈
    [Instr.undef4 true true 1 2 3, .undef5 true true 1 2 3, .undef7 true true 1 2 3, .undef8 true true 1 2 3,
      .undef9 true true 1 2 3, .undef10 true true 1 2 3, .undef11 true true 1 2 3, .undef13 true true 1 2 3,
      .undef14 true true 1 2 3, .undef15 true true 1 2 3] := by decide
-- Retired: with and without each flag; at the last point and before it.
theorem witness_Retired_last : ending.idx + 1 = ending.total := by decide
theorem witness_Retired_not_last : ({ ending with runW := 1 } : State).idx + 1 ≠ ({ ending with runW := 1 } : State).total := by
  decide
-- IsSum, IsProduct (AdditionIsIeeeBinary32, SubtractionIsIeeeBinary32, MultiplicationIsIeeeBinary32): a NaN,
-- an infinity and a number; opposite infinities; a zero and an infinity; both sides of overflow.
theorem witness_sum_NaN : IsNaNWord 0x7F800001 := by decide
theorem witness_sum_inf : IsInf 0x7F800000 ∧ IsInf 0xFF800000 ∧ IsFinite 0x7F7FFFFF := by unfold IsInf IsFinite; decide
theorem witness_product_zero : IsFinite 0x80000000 ∧ scaled 0x80000000 = 0 ∧ IsFinite 1 ∧ scaled 1 ≠ 0 := by
  unfold IsFinite; decide +kernel
theorem witness_rounding_in_range : |scaled 0x7F7FFFFF * 2 ^ 149| < overflowBound := by decide +kernel
theorem witness_rounding_overflow : overflowBound ≤ |(scaled 0x7F7FFFFF + scaled 0x73000000) * 2 ^ 149| := by decide +kernel
theorem witness_ConversionIsNearestSigned :
    |(0x01000000 : Word).toInt| ≤ 2 ^ 24 ∧ |(0xFF000000 : Word).toInt| ≤ 2 ^ 24 ∧ (1 : Word) ≠ 0 := by decide +kernel
-- 3 + 9 = 12, 9 - 3 = 6, 3 times 2.5 is 7.5.
theorem witness_RepresentableResultsAreExact :
    scaled 0x41400000 = scaled 0x40400000 + scaled 0x41100000 ∧ scaled 0x40C00000 = scaled 0x41100000 - scaled 0x40400000 ∧
    scaled 0x40F00000 * 2 ^ 149 = scaled 0x40400000 * scaled 0x40200000 := by decide +kernel
theorem witness_FreeNanRangesOverNanWords : IsNaNWord 0xFFFFFFFF := by decide
-- The bytes of a word across the top of the address space, and one outside them.
theorem witness_DmaWordOccupiesItsFourBytes : (3 < 4 ∧ byteAddr 0xFFFFFFFE 3 = 1) ∧ ∀ j < 4, 2 ≠ byteAddr 0xFFFFFFFE j := by
  decide
theorem witness_EmissionTargetsCoincideOrAreDisjoint :
    0 % 2 ^ 28 = 2 ^ 28 % 2 ^ 28 ∧ blank.toCoreState.pointAddr 0 ≠ blank.toCoreState.pointAddr (2 ^ 28 - 1) := by decide
-- Statements about a step (CountersSaturateAndClearOnlyAtStartOrReset, ControllerTransitions, PulseExactlyAtDone,
-- RunCopiesChangeOnlyAtStartOrReset, StoreChangesOnlyByHostWriteOrReset, RegistersChangeOnlyByTheirWriters,
-- PoliciesAreFixed): steps that answer a next state and change what the statement is about.
theorem witness_step_counts : view (·.vertices) (step ending) = some 1 := by decide +kernel
theorem witness_step_starts : view (·.fsm) (step starting) = some .running ∧ StartNext starting :=
  ⟨by decide +kernel, .write 4 0x000 1, [], rfl, 1, rfl, by decide, .inl rfl⟩
theorem witness_step_finishes : view (·.fsm) (step ending) = some .done ∧ ending.fsm = .running := ⟨by decide +kernel, rfl⟩
theorem witness_step_resets : view (·.fsm) (step resetting) = some .idle ∧ ResetNext resetting := ⟨by decide +kernel, [], rfl⟩
theorem witness_step_writes_register : view (·.reg 127) (step regWrite) = some 7 ∧ regWrite.reg 127 ≠ 7 := by decide +kernel
theorem witness_step_writes_slot : view (·.ucode[511]) (step slotWrite) = some 7 := by decide +kernel
theorem witness_step_computes : view (·.reg 3) (step { turn with x := turn.x.set 4 0x41100000 }) = some 0x41400000 := by
  decide +kernel
-- A write to MESH_W and a read of a write-only register fall before an instruction of a run; a start write is ignored.
theorem witness_HostOperationsDoNotReachTheRun :
    ending.busy = true ∧ SoftwareMay (.write 4 0x008 9) ending ∧ ¬ BeginsRun (.write 4 0x008 9) ending ∧
    SoftwareMay (.write 4 0x000 1) ending ∧ ¬ BeginsRun (.write 4 0x000 1) ending ∧
    view (·.meshW) (hostOp (.write 4 0x008 9) ending) = some 9 ∧ view (·.draws) (hostOp (.read 4 0x004) ending) = some 1 ∧
    view (·.fsm) (exec (decode 0xC0000003) ending) = some .done := by
  refine ⟨rfl, ⟨by decide, fun _ => by simp [HostOp.WritesStorage]⟩, ?_, ⟨by decide, fun _ => by simp [HostOp.WritesStorage]⟩,
    ?_, by decide +kernel, by decide +kernel, by decide +kernel⟩
  · rintro ⟨v, h, _⟩
    cases h
  · rintro ⟨v, h, _, h' | h'⟩ <;> cases h'
theorem witness_PointIndexEnumeratesTheMesh :
    ({ blank with runW := 1, idx := 1 } : State).idx < ({ blank with runW := 1, idx := 1 } : State).total := by decide
theorem witness_PointIndexEnumeratesTheMesh_columnMajor :
    ({ blank with policy := { blank.policy with meshOrder := .columnMajor } } : State).idx < blank.total := by decide
-- CTL: the boundary values of the word written, and the two policies.
theorem witness_AcceptedStartBeginsARun : (0xFFFFFFFF : Word).getLsbD 0 = true ∧ blank.busy = false := by decide
theorem witness_StartWhileBusyFollowsThePolicy_ignore :
    (1 : Word).getLsbD 0 = true ∧ ending.busy = true ∧ ending.policy.startWhileBusy = .ignore := by decide
theorem witness_StartWhileBusyFollowsThePolicy_restart :
    ({ ending with policy := { ending.policy with startWhileBusy := .restart } } : State).busy = true := by decide
theorem witness_ConfigurationWritesReachTheNextRun : (1 : Word).getLsbD 0 = true ∧ starting.busy = false := by decide
theorem witness_WritingZeroToCtlDoesNothing : (0xFFFFFFFE : Word).getLsbD 0 = false := by decide
-- The ends of every window of write-only and unmapped offsets.
theorem witness_WriteOnlyReadsReturnFreeValues : ∀ off ∈ [0x04, 0x08, 0x0C, 0x10, 0x20, 0x3FC, 0x600, 0x7FC, 0x800, 0xFFC],
    off % 4 = 0 ∧ (off = 0x04 ∨ off = 0x08 ∨ off = 0x0C ∨ (0x800 ≤ off ∧ off < 0x1000) ∨
      off = 0x10 ∨ (0x20 ≤ off ∧ off < 0x400) ∨ (0x600 ≤ off ∧ off < 0x800)) := by decide
theorem witness_UnmappedWritesDoNothing : ∀ off ∈ [0x10, 0x20, 0x3FC, 0x600, 0x7FC],
    off % 4 = 0 ∧ (off = 0x10 ∨ (0x20 ≤ off ∧ off < 0x400) ∨ (0x600 ≤ off ∧ off < 0x800)) := by decide
-- RegfileWindowReadsAndWrites, MicrocodeWindowWrites: the ends of the two windows while idle.
theorem witness_windows : blank.busy = false ∧ 0x400 + 4 * (127 : RegIdx).toNat = 0x5FC ∧
    0x800 + 4 * (511 : Fin Config.ucodeWords).val = 0xFFC := by decide
-- Each clause of the refusals, at the boundary.
theorem witness_HostOperationsRefusedExactly_may : SoftwareMay (.write 4 0x3FC 0) ending :=
  ⟨by decide, fun _ => by simp [HostOp.WritesStorage]⟩
theorem witness_HostOperationsRefusedExactly_wide : ¬ (HostOp.read 8 0).WordWide := by decide
theorem witness_HostOperationsRefusedExactly_unaligned : (HostOp.read 4 3).WordWide ∧ ¬ (HostOp.read 4 3).Aligned := by decide
theorem witness_HostOperationsRefusedExactly_outside :
    (HostOp.read 4 0x1000).WordWide ∧ (HostOp.read 4 0x1000).Aligned ∧ ¬ (HostOp.read 4 0x1000).InWindow := by decide
theorem witness_HostOperationsRefusedExactly_during_run :
    (HostOp.write 4 0x5FC 0).WellFormed ∧ ending.busy = true ∧ (HostOp.write 4 0x5FC 0).WritesStorage :=
  ⟨by decide, by decide, .inl (by decide)⟩
theorem witness_HostReadsHaveNoSideEffect : view (·.draws) (hostOp (.read 4 0x004) blank) = some 1 := by decide +kernel
theorem witness_ResetClearsTheControlState : resetting.inbox = .reset :: [] ∧ resetting.pc ≠ 0 := ⟨rfl, by decide⟩
-- A run in progress that has emitted has the invariant, and it steps.
theorem witness_StepKeepsTheInvariant :
    ({ ending with emitted := true, written := [0x10], vertices := 1 } : State).Inv ∧
    view (·.collisions) (step { ending with emitted := true, written := [0x10], vertices := 1 }) = some 1 := by
  refine ⟨⟨⟨by decide, fun _ => by decide, fun _ _ => by decide, fun _ a ha => ⟨0, ?_, .inr ⟨rfl, rfl⟩⟩, by decide, by decide,
    fun _ => rfl, List.pairwise_singleton _ _⟩, ⟨List.Pairwise.nil, fun _ h => nomatch h⟩⟩, by decide +kernel⟩
  rw [List.mem_singleton.mp ha]
  decide
theorem witness_StallIsForever :
    stalled.Stalled ∧ stalled.policy.startWhileBusy = .ignore ∧ Stimulus.reset ∉ stalled.inbox ∧
    view (·.pc) (runSteps 4 stalled) = some 512 := ⟨⟨rfl, rfl⟩, rfl, by decide, by decide +kernel⟩
theorem witness_RunWithoutCompletionFlagStalls : blank.inbox = [] ∧ ∀ k < 512, blank.slotEnds k = false := by
  refine ⟨rfl, fun k hk => ?_⟩
  have : blank.ucode[k]? = some 0 := by
    rw [show blank.ucode = Vector.replicate 512 0 from rfl]
    simp [hk]
  rw [CoreState.slotEnds, this]
  rfl
-- CountersAtTheEndOfARun too: a one-instruction program that emits and completes, on a mesh of two points.
theorem witness_RunEndsAfterTotalTimesLengthSteps :
    ({ loaded [] [0xC0000003] with meshW := 1 } : State).EndsAt 0 ∧
    view (·.fsm) (runSteps 2 ({ loaded [] [0xC0000003] with meshW := 1 } : State).startRun) = some .done :=
  ⟨⟨by decide, by decide +kernel, fun _ h => absurd h (Nat.not_lt_zero _)⟩, by decide +kernel⟩
theorem witness_WellFormedProgramsRunClean :
    (loaded [] [0xC0000003]).WellFormedProgram ∧ (loaded [] [0xC0000003]).startRun.total ≤ 2 ^ 28 := by
  refine ⟨⟨0, ⟨by decide, by decide +kernel, fun _ h => absurd h (Nat.not_lt_zero _)⟩, by decide +kernel, ?_⟩, by decide⟩
  intro k hk w hw
  obtain rfl : k = 0 := Nat.le_zero.mp hk
  have hw' : some w = some (0xC0000003 : Word) := hw.symm.trans (by decide +kernel)
  obtain rfl := Option.some.inj hw'
  decide

end Sys2Proof.Tests
end

section
/-! SUPPORT. The family of 00_scope.md: an agent's turn (R7), the policies (R5, R46), and host operations during a run
(R7, R195, R197). -/

namespace Sys2Proof.Machine

open Sys2Proof Sys2Proof.Spec

variable {s t u : State}

/-! ### The turn of a scheduled agent (R7) -/

theorem takeTurn_of_inbox_cons {a : Stimulus} {rest : List Stimulus} (h : s.inbox = a :: rest) :
    s.takeTurn = { s with inbox := rest } := by
  simp only [State.takeTurn, h, List.tail_cons]

theorem step_of_host {op : HostOp} {rest : List Stimulus} (h : s.inbox = .host op :: rest) :
    step s = hostOp op s.takeTurn := by
  rw [step.eq_def, h]

theorem step_of_reset {rest : List Stimulus} (h : s.inbox = .reset :: rest) :
    step s = .next s.takeTurn.resetInput := by
  rw [step.eq_def, h]

/-- Settles O8. -/
theorem scheduledAgentActs : Obligations.ScheduledAgentActs := by
  refine fun s rest => ⟨fun op h => ?_, fun h => ?_⟩
  · rw [step_of_host h, takeTurn_of_inbox_cons h]
  · rw [step_of_reset h, takeTurn_of_inbox_cons h]

/-! ### The policies (R5, R46) -/

theorem retire_policy (s : State) (eop emit : Bool) (d : RegIdx) : (s.retire eop emit d).policy = s.policy := by
  obtain ⟨_, _, _, _, _, _, _, _, _, hpolicy, _⟩ := retire_frame s eop emit d
  exact hpolicy

theorem exec_policy {i : Instr} (h : exec i s = .next t) : t.policy = s.policy := by
  obtain ⟨s₁, hop, rfl⟩ := exec_cases h
  rw [retire_policy]
  obtain rfl | ⟨_, v, rfl⟩ := hop
  · rfl
  · exact setReg_policy s i.dest v

theorem coreTurn_policy (h : coreTurn s = .next t) : t.policy = s.policy := by
  obtain ⟨i, _, hexec⟩ | ⟨_, rfl⟩ := coreTurn_cases h
  · exact exec_policy hexec
  · rfl

theorem hostOp_policy {op : HostOp} (h : hostOp op s = .next t) : t.policy = s.policy := by
  obtain ⟨⟨_, haligned, _⟩, ⟨off, v, n, _, rfl⟩ | ⟨off, v, rfl, hwrite⟩⟩ := hostOp_cases h
  · simp
  · obtain rfl | ⟨_, _, _, rfl⟩ | rfl | rfl | rfl | ⟨n, _, _, rfl⟩ | ⟨k, _, _, rfl⟩ := hostWrite_cases haligned hwrite
    all_goals simp

/-- Settles O34, by the four things a step can be: a turn of the core, unscheduled or scheduled, reset, or a host
operation. -/
theorem policiesAreFixed : Obligations.PoliciesAreFixed := by
  intro s t h
  obtain ⟨_, hcore⟩ | ⟨_, _, hcore⟩ | ⟨_, _, rfl⟩ | ⟨op, _, _, hhost⟩ := step_cases h
  · exact coreTurn_policy hcore
  · exact (coreTurn_policy hcore).trans (takeTurn_policy s)
  · rw [resetInput_policy, takeTurn_policy]
  · exact (hostOp_policy hhost).trans (takeTurn_policy s)

/-! ### Host operations during a run (R7, R195, R197)

An instruction reads and writes only a part of the state. What the host may touch during a run lies outside it: the three
configuration registers, the trace of the ports and the counter of free values. -/

/-- The state with everything blanked that no effect of an instruction depends on. -/
def State.runPart (s : State) : State :=
  { s with dmaBase := 0, meshW := 0, meshH := 0, port := [], inbox := [], draws := 0 }

theorem emission_runPart (s : State) (d : RegIdx) : (s.runPart.emission d).runPart = (s.emission d).runPart := rfl

theorem endOfPass_runPart (s : State) : s.runPart.endOfPass.runPart = s.endOfPass.runPart := by
  by_cases h : s.idx + 1 = s.total
  · rw [endOfPass_last h, endOfPass_last (s := s.runPart) h]
    rfl
  · rw [endOfPass_next h, endOfPass_next (s := s.runPart) h]
    rfl

theorem emitPhase_runPart (s : State) (emit : Bool) (d : RegIdx) :
    (s.runPart.emitPhase emit d).runPart = (s.emitPhase emit d).runPart := by
  cases emit
  · rfl
  · exact emission_runPart s d

theorem endPhase_runPart (s : State) (eop : Bool) : (s.runPart.endPhase eop).runPart = (s.endPhase eop).runPart := by
  cases eop
  · rfl
  · exact endOfPass_runPart s

theorem retire_runPart (s : State) (eop emit : Bool) (d : RegIdx) :
    (s.runPart.retire eop emit d).runPart = (s.retire eop emit d).runPart := by
  calc (s.runPart.retire eop emit d).runPart
      = ((s.runPart.emitPhase emit d).runPart.endPhase eop).runPart := (endPhase_runPart _ eop).symm
    _ = ((s.emitPhase emit d).runPart.endPhase eop).runPart := by rw [emitPhase_runPart]
    _ = (s.retire eop emit d).runPart := endPhase_runPart _ eop

/-- What an instruction does to the run part depends on the run part alone: its registers are read from there and written
there, and `retire_runPart` says the same of its flags. -/
theorem exec_runPart (i : Instr) (s : State) :
    mapNext State.runPart (exec i s.runPart) = mapNext State.runPart (exec i s) := by
  cases i with
  | fadd | fsub | fmul | i2f | copy => exact congrArg Host.Outcome.next (retire_runPart (s.setReg _ _) _ _ _)
  | _ => exact congrArg Host.Outcome.next (retire_runPart s _ _ _)

theorem exec_runPart_congr {i : Instr} {t' : State} (hsu : u.runPart = s.runPart) (hs : exec i s = .next t)
    (hu : exec i u = .next t') : t'.runPart = t.runPart := by
  have hmap : mapNext State.runPart (exec i u) = mapNext State.runPart (exec i s) := by
    rw [← exec_runPart i u, hsu, exec_runPart]
  rw [hs, hu] at hmap
  exact Host.Outcome.next.inj hmap

/-- During a run the host reaches the run part only by beginning another run: its writes to the two stores are refused. -/
theorem hostOp_runPart {op : HostOp} (hbusy : s.busy = true) (hstart : ¬ BeginsRun op s) (h : hostOp op s = .next u) :
    u.runPart = s.runPart := by
  obtain ⟨⟨_, haligned, _⟩, ⟨off, v, n, _, rfl⟩ | ⟨off, v, rfl, hwrite⟩⟩ := hostOp_cases h
  · rfl
  · obtain rfl | ⟨rfl, hv, hallowed, _⟩ | rfl | rfl | rfl | ⟨_, _, hidle, _⟩ | ⟨_, _, hidle, _⟩ :=
      hostWrite_cases haligned hwrite
    · rfl
    · exact absurd ⟨v, rfl, hv, hallowed⟩ hstart
    · rfl
    · rfl
    · rfl
    · cases hbusy.symm.trans hidle
    · cases hbusy.symm.trans hidle

/-- Settles O37: the host operation leaves the run part, the instruction depends on nothing else, and every field of the
statement lies in it. -/
theorem hostOperationsDoNotReachTheRun : Obligations.HostOperationsDoNotReachTheRun := by
  intro i op s u t t' hbusy _ hstart hhost hs hu
  have h : t'.runPart = t.runPart := exec_runPart_congr (hostOp_runPart hbusy hstart hhost) hs hu
  exact ⟨congrArg (·.x) h, congrArg (·.ucode) h, congrArg (·.pc) h, congrArg (·.fsm) h, congrArg (·.emitted) h,
    congrArg (·.idx) h, congrArg (·.vertices) h, congrArg (·.collisions) h, congrArg (·.stray) h, congrArg (·.written) h,
    congrArg (·.runBase) h, congrArg (·.runW) h, congrArg (·.runH) h, congrArg (·.irqCount) h, congrArg (·.mem) h⟩

end Sys2Proof.Machine
end

section
/-! SUPPORT. The family of 10_state.md, part 1: what one step does to the whole state (R7), and which steps write the
run's copies (R24), the microcode store (R13) and the registers (R11, R12); the order of the points (R25) and the reset
table (R29). -/

namespace Sys2Proof.Machine

open Sys2Proof Sys2Proof.Spec

variable {s t : State}

/-! ### Every effect of a step (R7)

`step_cases` says who acts. The effects below go one level further, to the operation over the state that the agent ends
in, so that the frame of a field is one case split. -/

theorem takeTurn_of_inbox_nil (h : s.inbox = []) : s.takeTurn = s := by
  rw [State.takeTurn, h, List.tail_nil, ← h]

/-- The states a step from `s` can answer. -/
inductive StepEffect (s : State) : State → Prop
  /-- An enabled core step: an operation, then the flags (R102). -/
  | executes {i : Instr} {s₁ : State} (hturn : CoreHasTurn s) (hfetch : s.fetch = some i)
      (hop : Operated i s.takeTurn s₁) : StepEffect s (s₁.retire i.eop i.emit i.dest)
  /-- A turn without effect: no core step is enabled (R100), or the host write changes nothing. -/
  | passes : StepEffect s s.takeTurn
  /-- R190. -/
  | resets (hreset : ResetNext s) : StepEffect s s.takeTurn.resetInput
  /-- R45. -/
  | reads (off : Nat) (v : Word) (n : Nat) : StepEffect s ((s.takeTurn.putReadData off v).useDraws n)
  /-- R81, R82. -/
  | starts (hstart : StartNext s) : StepEffect s s.takeTurn.startRun
  /-- R85. -/
  | setsDmaBase (v : Word) : StepEffect s (s.takeTurn.setDmaBase v)
  /-- R86. -/
  | setsMeshW (v : Word) : StepEffect s (s.takeTurn.setMeshW v)
  /-- R87. -/
  | setsMeshH (v : Word) : StepEffect s (s.takeTurn.setMeshH v)
  /-- R92. -/
  | writesReg (n : RegIdx) (v : Word) (rest : List Stimulus)
      (hinbox : s.inbox = .host (.write 4 (0x400 + 4 * n.toNat) v) :: rest) (hidle : s.busy = false) :
      StepEffect s (s.takeTurn.setReg n v)
  /-- R93. -/
  | writesSlot (k : Fin Config.ucodeWords) (v : Word) (rest : List Stimulus)
      (hinbox : s.inbox = .host (.write 4 (0x800 + 4 * k.val) v) :: rest) (hidle : s.busy = false) :
      StepEffect s (s.takeTurn.setUcode k v)

theorem coreTurn_effect (hturn : CoreHasTurn s) (h : coreTurn s.takeTurn = .next t) : StepEffect s t := by
  obtain ⟨i, hfetch, hexec⟩ | ⟨_, rfl⟩ := coreTurn_cases h
  · obtain ⟨s₁, hop, rfl⟩ := exec_cases hexec
    exact .executes hturn hfetch hop
  · exact .passes

theorem hostOp_effect {op : HostOp} {rest : List Stimulus} (hinbox : s.inbox = .host op :: rest)
    (h : hostOp op s.takeTurn = .next t) : StepEffect s t := by
  obtain ⟨⟨_, haligned, _⟩, ⟨off, v, n, _, rfl⟩ | ⟨off, v, rfl, hwrite⟩⟩ := hostOp_cases h
  · exact .reads off v n
  · obtain rfl | ⟨rfl, hv, hallowed, rfl⟩ | rfl | rfl | rfl | ⟨n, rfl, hidle, rfl⟩ | ⟨k, rfl, hidle, rfl⟩ :=
      hostWrite_cases haligned hwrite
    · exact .passes
    · exact .starts ⟨_, rest, hinbox, v, rfl, hv, hallowed⟩
    · exact .setsDmaBase v
    · exact .setsMeshW v
    · exact .setsMeshH v
    · exact .writesReg n v rest hinbox hidle
    · exact .writesSlot k v rest hinbox hidle

theorem step_effect (h : step s = .next t) : StepEffect s t := by
  obtain ⟨hnil, hcore⟩ | ⟨rest, hcons, hcore⟩ | ⟨rest, hcons, rfl⟩ | ⟨op, rest, hcons, hhost⟩ := step_cases h
  · exact coreTurn_effect (.inl hnil) (by rwa [takeTurn_of_inbox_nil hnil])
  · exact coreTurn_effect (.inr ⟨rest, hcons⟩) hcore
  · exact .resets ⟨rest, hcons⟩
  · exact hostOp_effect hcons hhost

/-- An operation writes the register file and nothing else. -/
theorem operated_eq_with_x {i : Instr} {s₁ : State} (hop : Operated i s s₁) : ∃ x, s₁ = { s with x := x } := by
  obtain rfl | ⟨_, v, rfl⟩ := hop
  · exact ⟨s₁.x, rfl⟩
  · exact ⟨_, rfl⟩

/-! ### Who writes the run's copies, the store and the registers -/

theorem executes_runCopies {i : Instr} {s₁ : State} (hop : Operated i s s₁) :
    (s₁.retire i.eop i.emit i.dest).runBase = s.runBase ∧ (s₁.retire i.eop i.emit i.dest).runW = s.runW ∧
    (s₁.retire i.eop i.emit i.dest).runH = s.runH := by
  obtain ⟨x, rfl⟩ := operated_eq_with_x hop
  obtain ⟨_, _, _, _, _, hbase, hw, hh, _⟩ := retire_frame { s with x := x } i.eop i.emit i.dest
  exact ⟨hbase, hw, hh⟩

theorem executes_ucode {i : Instr} {s₁ : State} (hop : Operated i s s₁) :
    (s₁.retire i.eop i.emit i.dest).ucode = s.ucode := by
  obtain ⟨x, rfl⟩ := operated_eq_with_x hop
  obtain ⟨_, hucode, _⟩ := retire_frame { s with x := x } i.eop i.emit i.dest
  exact hucode

/-- An instruction changes a register only if it is one of the five writing operations and the register its destination. -/
theorem writer_of_executes_reg_ne {i : Instr} {s₁ : State} {r : RegIdx} (hop : Operated i s s₁)
    (hne : (s₁.retire i.eop i.emit i.dest).reg r ≠ s.reg r) : i.dest = r ∧ i.opcode ∈ [1, 2, 3, 6, 12] := by
  rw [retire_reg] at hne
  obtain rfl | ⟨hopcode, v, rfl⟩ := hop
  · exact absurd rfl hne
  · by_cases hr : r = i.dest
    · exact ⟨hr.symm, hopcode⟩
    · exact absurd (reg_setReg_of_ne s hr v) hne

/-- Settles O31. -/
theorem runCopiesChangeOnlyAtStartOrReset : Obligations.RunCopiesChangeOnlyAtStartOrReset := by
  intro s t h
  cases step_effect h with
  | executes _ _ hop => exact .inl (executes_runCopies (s := s.takeTurn) hop)
  | starts hstart => exact .inr (.inl ⟨hstart, rfl, rfl, rfl⟩)
  | resets hreset => exact .inr (.inr ⟨hreset, resetInput_runBase _, resetInput_runW _, resetInput_runH _⟩)
  | passes | reads | setsDmaBase | setsMeshW | setsMeshH | writesReg | writesSlot => exact .inl ⟨rfl, rfl, rfl⟩

/-- Settles O32. -/
theorem storeChangesOnlyByHostWriteOrReset : Obligations.StoreChangesOnlyByHostWriteOrReset := by
  intro s t h
  cases step_effect h with
  | executes _ _ hop => exact .inl (executes_ucode (s := s.takeTurn) hop)
  | writesSlot k v rest hinbox hidle => exact .inr (.inl ⟨k, v, rest, hinbox, hidle, rfl⟩)
  | resets hreset => exact .inr (.inr hreset)
  | passes | reads | starts | setsDmaBase | setsMeshW | setsMeshH | writesReg => exact .inl rfl

/-- Settles O33. -/
theorem registersChangeOnlyByTheirWriters : Obligations.RegistersChangeOnlyByTheirWriters := by
  intro s t r h hne
  cases step_effect h with
  | executes hturn hfetch hop =>
    obtain ⟨hdest, hopcode⟩ := writer_of_executes_reg_ne hop hne
    exact .inl ⟨hturn, _, hfetch, hdest, hopcode⟩
  | writesReg n v rest hinbox hidle =>
    obtain rfl : r = n := by
      by_contra hr
      exact hne (reg_setReg_of_ne s.takeTurn hr v)
    exact .inr (.inl ⟨v, rest, hinbox, hidle, reg_setReg_self _ _ _⟩)
  | resets hreset => exact .inr (.inr hreset)
  | passes | reads | starts | setsDmaBase | setsMeshW | setsMeshH | writesSlot => exact absurd rfl hne

/-! ### The order of the points (R25, R137) -/

theorem point_of_rowMajor (h : s.policy.meshOrder = .rowMajor) :
    s.point = (s.idx % (s.runW.toNat + 1), s.idx / (s.runW.toNat + 1)) := by
  rw [State.point, h]

theorem point_of_columnMajor (h : s.policy.meshOrder = .columnMajor) :
    s.point = (s.idx / (s.runH.toNat + 1), s.idx % (s.runH.toNat + 1)) := by
  rw [State.point, h]

/-- Settles O28: under either order the point is the quotient and the remainder of the index by the length of a line. -/
theorem pointIndexEnumeratesTheMesh : Obligations.PointIndexEnumeratesTheMesh := by
  intro s hidx
  cases horder : s.policy.meshOrder with
  | rowMajor =>
    have hrow : s.idx / (s.runW.toNat + 1) < s.runH.toNat + 1 := Nat.div_lt_of_lt_mul hidx
    rw [point_of_rowMajor horder]
    exact ⟨Nat.le_of_lt_succ (Nat.mod_lt _ (Nat.succ_pos _)), Nat.le_of_lt_succ hrow,
      fun _ => (Nat.div_add_mod' _ _).symm, nofun⟩
  | columnMajor =>
    have hcolumn : s.idx / (s.runH.toNat + 1) < s.runW.toNat + 1 :=
      Nat.div_lt_of_lt_mul (hidx.trans_eq (Nat.mul_comm _ _))
    rw [point_of_columnMajor horder]
    exact ⟨Nat.le_of_lt_succ hcolumn, Nat.le_of_lt_succ (Nat.mod_lt _ (Nat.succ_pos _)), nofun,
      fun _ => (Nat.div_add_mod' _ _).symm⟩

/-! ### The reset table (R29) -/

/-- Settles O52. -/
theorem resetStateIsAsTabled : Obligations.ResetStateIsAsTabled :=
  ⟨rfl, rfl, rfl, rfl, rfl, rfl, rfl, rfl, rfl, rfl, rfl, rfl, rfl, rfl, rfl, rfl, rfl, rfl, rfl⟩

end Sys2Proof.Machine
end

section
/-! SUPPORT. The family of 10_state.md, part 2: the invariant of the core (R14, R26, R28, R160, R165). The core's part and
the memory's are kept apart, since a run may start over any memory. -/

namespace Sys2Proof.Machine

open Sys2Proof Sys2Proof.Spec

variable {s t : State}

/-! ### Where the invariant begins -/

/-- The invariant speaks of the sequencing, the counters and the address set alone. -/
theorem CoreState.Inv.with_unrelated {c : CoreState} (h : c.Inv) (x : Vector Word Config.nRegs)
    (ucode : Vector Word Config.ucodeWords) (base : Addr) (w l : MeshField) :
    ({ c with x := x, ucode := ucode, dmaBase := base, meshW := w, meshH := l } : CoreState).Inv :=
  ⟨h.pc_le, h.idx_lt, h.emitted_written, h.written_points, h.stray_le, h.collisions_le, h.collisions_eq,
    h.written_rising⟩

theorem afterReset_inv (x : Vector Word Config.nRegs) (ucode : Vector Word Config.ucodeWords) :
    (CoreState.afterReset x ucode).Inv where
  pc_le := Nat.zero_le _
  idx_lt := nofun
  emitted_written := nofun
  written_points := nofun
  stray_le := Nat.le_refl _
  collisions_le := Nat.le_refl _
  collisions_eq := fun _ => rfl
  written_rising := List.Pairwise.nil

theorem total_pos (c : CoreState) : 0 < c.total := Nat.mul_pos (Nat.succ_pos _) (Nat.succ_pos _)

/-- A start begins with the invariant whatever was there before it (R81). -/
theorem startRun_inv (s : State) : s.startRun.toCoreState.Inv where
  pc_le := Nat.zero_le _
  idx_lt := fun _ => total_pos _
  emitted_written := nofun
  written_points := nofun
  stray_le := Nat.le_refl _
  collisions_le := Nat.le_refl _
  collisions_eq := fun _ => rfl
  written_rising := List.Pairwise.nil

theorem Memory.wf_nil : Memory.wf [] := ⟨List.Pairwise.nil, nofun⟩

/-- Settles O54. -/
theorem resetHasTheInvariant : Obligations.ResetHasTheInvariant := ⟨afterReset_inv _ _, Memory.wf_nil⟩

/-! ### An emission keeps the invariant

The heart is R165 (b): while the addresses do not wrap, a point's address is in the set exactly when its own pass has
emitted, so the two detectors fire together. -/

theorem emitAddr_eq_pointAddr (c : CoreState) : c.emitAddr = c.pointAddr c.idx := rfl

/-- Below 2^28 points the addresses of a run are pairwise different (R160). -/
theorem pointAddr_inj {c : CoreState} {i j : Nat} (hi : i < 2 ^ 28) (hj : j < 2 ^ 28)
    (h : c.pointAddr i = c.pointAddr j) : i = j := by
  have hoffset : BitVec.ofNat 32 (16 * i) = BitVec.ofNat 32 (16 * j) := by
    simpa [CoreState.pointAddr] using h
  have hmod := congrArg BitVec.toNat hoffset
  simp only [BitVec.toNat_ofNat] at hmod
  omega

theorem emitAddr_mem_written_iff {c : CoreState} (h : c.Inv) (hrun : c.fsm = .running) (htotal : c.total ≤ 2 ^ 28) :
    c.emitAddr ∈ c.written ↔ c.emitted = true := by
  refine ⟨fun hmem => ?_, h.emitted_written hrun⟩
  have hidx := h.idx_lt hrun
  obtain ⟨j, haddr, hj | ⟨_, hemitted⟩⟩ := h.written_points hrun _ hmem
  · have : c.idx = j := pointAddr_inj (by omega) (by omega) ((emitAddr_eq_pointAddr c).symm.trans haddr)
    omega
  · exact hemitted

theorem sat32Succ_mono {a b : Counter} (h : a.toNat ≤ b.toNat) : (sat32Succ a).toNat ≤ (sat32Succ b).toNat := by
  rw [sat32Succ_toNat, sat32Succ_toNat]
  omega

theorem le_sat32Succ (a : Counter) : a.toNat ≤ (sat32Succ a).toNat := by
  have := counter_toNat_lt a
  rw [sat32Succ_toNat]
  omega

/-- Every point of the set after an emission is an earlier one or the current one, which has emitted now. -/
theorem emission_written_points (h : s.toCoreState.Inv) (hrun : s.fsm = .running) (d : RegIdx) :
    ∀ a ∈ (s.emission d).written, ∃ j, a = s.pointAddr j ∧ (j < s.idx ∨ j = s.idx) := by
  intro a ha
  rw [emission_written, mem_insertAddr] at ha
  obtain rfl | ha := ha
  · exact ⟨s.idx, emitAddr_eq_pointAddr _, .inr rfl⟩
  · obtain ⟨j, haddr, hj⟩ := h.written_points hrun a ha
    exact ⟨j, haddr, hj.imp_right (·.1)⟩

/-- Each detector that fires is matched: a stray write by a collision (R165 (a)), a collision by the vertex. -/
theorem emission_stray_le (h : s.toCoreState.Inv) (hrun : s.fsm = .running) (d : RegIdx) :
    (s.emission d).stray.toNat ≤ (s.emission d).collisions.toNat := by
  rw [emission_stray, emission_collisions]
  by_cases hemitted : s.emitted = true
  · rw [if_pos hemitted, if_pos (h.emitted_written hrun hemitted)]
    exact sat32Succ_mono h.stray_le
  · rw [if_neg hemitted]
    split
    · exact h.stray_le.trans (le_sat32Succ _)
    · exact h.stray_le

theorem emission_collisions_le (h : s.toCoreState.Inv) (d : RegIdx) :
    (s.emission d).collisions.toNat ≤ (s.emission d).vertices.toNat := by
  rw [emission_collisions, emission_vertices]
  split
  · exact sat32Succ_mono h.collisions_le
  · exact h.collisions_le.trans (le_sat32Succ _)

theorem emission_inv (h : s.toCoreState.Inv) (hrun : s.fsm = .running) (d : RegIdx) :
    (s.emission d).toCoreState.Inv where
  pc_le := by
    rw [emission_pc]
    exact h.pc_le
  idx_lt _ := by
    rw [emission_idx, emission_total]
    exact h.idx_lt hrun
  emitted_written _ _ := by
    rw [emission_emitAddr, emission_written, mem_insertAddr]
    exact .inl rfl
  written_points _ a ha := by
    obtain ⟨j, haddr, hj⟩ := emission_written_points h hrun d a ha
    exact ⟨j, haddr, hj.imp_right fun hj => ⟨hj, emission_emitted s d⟩⟩
  stray_le := emission_stray_le h hrun d
  collisions_le := emission_collisions_le h d
  collisions_eq htotal := by
    rw [emission_total] at htotal
    rw [emission_collisions, emission_stray, h.collisions_eq htotal,
      if_congr (emitAddr_mem_written_iff h hrun htotal) rfl rfl]
  written_rising := by
    rw [emission_written]
    exact insertAddr_rising _ h.written_rising

/-! ### Sequencing keeps the invariant -/

theorem advancePc_inv (h : s.toCoreState.Inv) (hpc : s.pc < Config.ucodeWords) : s.advancePc.toCoreState.Inv where
  pc_le := hpc
  idx_lt := h.idx_lt
  emitted_written := h.emitted_written
  written_points := h.written_points
  stray_le := h.stray_le
  collisions_le := h.collisions_le
  collisions_eq := h.collisions_eq
  written_rising := h.written_rising

theorem finishRun_inv (h : s.toCoreState.Inv) : s.advanceIdx.finishRun.toCoreState.Inv where
  pc_le := h.pc_le
  idx_lt := nofun
  emitted_written := nofun
  written_points := nofun
  stray_le := h.stray_le
  collisions_le := h.collisions_le
  collisions_eq := h.collisions_eq
  written_rising := h.written_rising

/-- What was the current point before is an earlier one now. -/
theorem nextPass_inv (h : s.toCoreState.Inv) (hlast : s.idx + 1 ≠ s.total) :
    s.advanceIdx.nextPass.toCoreState.Inv where
  pc_le := Nat.zero_le _
  idx_lt hrun := by
    have hidx := h.idx_lt hrun
    show s.idx + 1 < s.total
    omega
  emitted_written := nofun
  written_points hrun a ha := by
    obtain ⟨j, haddr, hj⟩ := h.written_points hrun a ha
    refine ⟨j, haddr, .inl ?_⟩
    show j < s.idx + 1
    omega
  stray_le := h.stray_le
  collisions_le := h.collisions_le
  collisions_eq := h.collisions_eq
  written_rising := h.written_rising

theorem emitPhase_inv (h : s.toCoreState.Inv) (hrun : s.fsm = .running) (emit : Bool) (d : RegIdx) :
    (s.emitPhase emit d).toCoreState.Inv := by
  cases emit
  · exact h
  · exact emission_inv h hrun d

theorem endPhase_inv (h : s.toCoreState.Inv) (hpc : s.pc < Config.ucodeWords) (eop : Bool) :
    (s.endPhase eop).toCoreState.Inv := by
  obtain ⟨_, heq⟩ | ⟨_, _, heq⟩ | ⟨_, hlast, heq⟩ := endPhase_cases s eop <;> rw [heq]
  · exact advancePc_inv h hpc
  · exact finishRun_inv h
  · exact nextPass_inv h hlast

theorem retire_inv (h : s.toCoreState.Inv) (hrun : s.fsm = .running) (hpc : s.pc < Config.ucodeWords)
    (eop emit : Bool) (d : RegIdx) : (s.retire eop emit d).toCoreState.Inv := by
  obtain ⟨_, _, hpc', _⟩ := emitPhase_frame s emit d
  exact endPhase_inv (emitPhase_inv h hrun emit d) (hpc' ▸ hpc) eop

theorem executes_inv {i : Instr} {s₁ : State} (h : s.toCoreState.Inv) (hfetch : s.fetch = some i)
    (hop : Operated i s s₁) : (s₁.retire i.eop i.emit i.dest).toCoreState.Inv := by
  obtain ⟨hrun, hpc, _⟩ := fetch_eq_some hfetch
  obtain ⟨x, rfl⟩ := operated_eq_with_x hop
  have hx : ({ s with x := x } : State).toCoreState.Inv := h.with_unrelated x _ _ _ _
  exact retire_inv hx hrun hpc i.eop i.emit i.dest

/-! ### Every step keeps the invariant -/

theorem step_coreInv (h : s.toCoreState.Inv) (hstep : step s = .next t) : t.toCoreState.Inv := by
  cases step_effect hstep with
  | executes _ hfetch hop => exact executes_inv (s := s.takeTurn) h hfetch hop
  | resets => exact afterReset_inv _ _
  | starts => exact startRun_inv _
  | passes | reads => exact h
  | setsDmaBase | setsMeshW | setsMeshH | writesReg | writesSlot => exact h.with_unrelated _ _ _ _ _

theorem retire_mem_wf (h : s.mem.wf) (eop emit : Bool) (d : RegIdx) : (s.retire eop emit d).mem.wf := by
  obtain ⟨_, _, _, _, _, _, _, _, _, _, _, _, hmem, _⟩ := endPhase_frame (s.emitPhase emit d) eop
  rw [State.retire, hmem]
  cases emit
  · exact h
  · exact emission_mem_wf h d

theorem step_mem_wf (h : s.mem.wf) (hstep : step s = .next t) : t.mem.wf := by
  cases step_effect hstep with
  | executes _ _ hop =>
    obtain ⟨x, rfl⟩ := operated_eq_with_x hop
    exact retire_mem_wf (s := { s.takeTurn with x := x }) h _ _ _
  | resets =>
    rw [resetInput_mem]
    exact h
  | passes | reads | starts | setsDmaBase | setsMeshW | setsMeshH | writesReg | writesSlot => exact h

/-- Settles O53. -/
theorem stepKeepsTheInvariant : Obligations.StepKeepsTheInvariant :=
  fun _ _ h hstep => ⟨step_coreInv h.toInv hstep, step_mem_wf h.mem_wf hstep⟩

end Sys2Proof.Machine
end

section
/-! SUPPORT. The family of 10_state.md, part 3: the run of a microprogram that reaches a completion flag (R199, R202), and
the counters of a well-formed one (R28 (f), R165, R200). -/

namespace Sys2Proof.Machine

open Sys2Proof Sys2Proof.Spec

variable {s t s₀ : State} {last n : Nat}

/-! ### One core step of a run -/

theorem slotEnds_of_lt {c : CoreState} {k : Nat} (h : k < Config.ucodeWords) :
    c.slotEnds k = (decode c.ucode[k]).eop := by
  rw [CoreState.slotEnds, Vector.getElem?_eq_getElem h]
  rfl

theorem slotEmits_of_lt {c : CoreState} {k : Nat} (h : k < Config.ucodeWords) :
    c.slotEmits k = (decode c.ucode[k]).emit := by
  rw [CoreState.slotEmits, Vector.getElem?_eq_getElem h]
  rfl

theorem exec_completes (i : Instr) (s : State) : ∃ t, exec i s = .next t := by
  cases i <;> exact ⟨_, rfl⟩

/-- An enabled core step, seen through the flags of its slot: it may write registers, and then the flags act. -/
theorem step_of_running (hinbox : s.inbox = []) (hrun : s.fsm = .running) (hpc : s.pc < Config.ucodeWords) :
    ∃ x d, step s = .next (({ s with x := x } : State).retire (s.slotEnds s.pc) (s.slotEmits s.pc) d) := by
  obtain ⟨t, hexec⟩ := exec_completes (decode s.ucode[s.pc]) s
  obtain ⟨s₁, hop, rfl⟩ := exec_cases hexec
  obtain ⟨x, rfl⟩ := operated_eq_with_x hop
  have hstep : step s = coreTurn s := by rw [step.eq_def, hinbox]
  rw [slotEnds_of_lt hpc, slotEmits_of_lt hpc, hstep, coreTurn.eq_def, fetch_of_running hrun hpc]
  exact ⟨x, _, hexec⟩

/-! ### The course of a run -/

/-- `s` is a state of the run that `s₀` starts, `n` core steps before its end. -/
structure RunsOn (s₀ : State) (last n : Nat) (s : State) : Prop where
  inbox_nil : s.inbox = []
  ucode_eq : s.ucode = s₀.ucode
  running : s.fsm = .running
  pc_le : s.pc ≤ last
  idx_lt : s.idx < s.total
  total_eq : s.total = s₀.startRun.total
  irqCount_eq : s.irqCount = s₀.irqCount
  /-- R202: every pass takes `last + 1` steps. -/
  steps_left : n + s.pc = (s.total - s.idx) * (last + 1)

theorem startRun_runsOn (hinbox : s₀.inbox = []) :
    RunsOn s₀ last (s₀.startRun.total * (last + 1)) s₀.startRun where
  inbox_nil := hinbox
  ucode_eq := rfl
  running := rfl
  pc_le := Nat.zero_le _
  idx_lt := total_pos _
  total_eq := rfl
  irqCount_eq := rfl
  steps_left := rfl

theorem RunsOn.with_x (h : RunsOn s₀ last n s) (x : Vector Word Config.nRegs) : RunsOn s₀ last n { s with x := x } :=
  ⟨h.inbox_nil, h.ucode_eq, h.running, h.pc_le, h.idx_lt, h.total_eq, h.irqCount_eq, h.steps_left⟩

theorem RunsOn.emission (h : RunsOn s₀ last n s) (d : RegIdx) : RunsOn s₀ last n (s.emission d) where
  inbox_nil := (emission_inbox s d).trans h.inbox_nil
  ucode_eq := (emission_ucode s d).trans h.ucode_eq
  running := (emission_fsm s d).trans h.running
  pc_le := (emission_pc s d).trans_le h.pc_le
  idx_lt := by
    rw [emission_idx, emission_total]
    exact h.idx_lt
  total_eq := (emission_total s d).trans h.total_eq
  irqCount_eq := (emission_irqCount s d).trans h.irqCount_eq
  steps_left := by
    rw [emission_pc, emission_total, emission_idx]
    exact h.steps_left

theorem RunsOn.emitPhase (h : RunsOn s₀ last n s) (emit : Bool) (d : RegIdx) : RunsOn s₀ last n (s.emitPhase emit d) := by
  cases emit
  · exact h
  · exact h.emission d

theorem RunsOn.advancePc (h : RunsOn s₀ last (n + 1) s) (hpc : s.pc < last) : RunsOn s₀ last n s.advancePc where
  inbox_nil := h.inbox_nil
  ucode_eq := h.ucode_eq
  running := h.running
  pc_le := hpc
  idx_lt := h.idx_lt
  total_eq := h.total_eq
  irqCount_eq := h.irqCount_eq
  steps_left := by
    rw [advancePc_pc, ← Nat.add_assoc, Nat.add_right_comm]
    exact h.steps_left

theorem RunsOn.nextPass (h : RunsOn s₀ last (n + 1) s) (hpc : s.pc = last) (hlast : s.idx + 1 ≠ s.total) :
    RunsOn s₀ last n s.advanceIdx.nextPass where
  inbox_nil := h.inbox_nil
  ucode_eq := h.ucode_eq
  running := h.running
  pc_le := Nat.zero_le _
  idx_lt := by
    have hidx := h.idx_lt
    show s.idx + 1 < s.total
    omega
  total_eq := h.total_eq
  irqCount_eq := h.irqCount_eq
  steps_left := by
    have hsteps := h.steps_left
    have hpoints : s.total - s.idx = (s.total - (s.idx + 1)) + 1 := by
      have hidx := h.idx_lt
      omega
    show n + 0 = (s.total - (s.idx + 1)) * (last + 1)
    rw [hpoints, Nat.succ_mul, hpc] at hsteps
    omega

/-- The completion flag of the last pass is the last step of the run. -/
theorem RunsOn.eq_zero (h : RunsOn s₀ last (n + 1) s) (hpc : s.pc = last) (hlast : s.idx + 1 = s.total) : n = 0 := by
  have hsteps := h.steps_left
  rw [← hlast, Nat.add_sub_cancel_left, hpc, Nat.one_mul] at hsteps
  omega

theorem RunsOn.finishRun (h : RunsOn s₀ last n s) : RunEnded s₀.toCoreState s.advanceIdx.finishRun.toCoreState :=
  ⟨rfl, rfl, congrArg (· + 1) h.irqCount_eq⟩

/-- There are steps left as long as the run is on. -/
theorem RunsOn.pos (h : RunsOn s₀ last n s) : 0 < n := by
  have hsteps := h.steps_left
  have hpc := h.pc_le
  have hpass : 1 * (last + 1) ≤ (s.total - s.idx) * (last + 1) := Nat.mul_le_mul_right _ (Nat.sub_pos_of_lt h.idx_lt)
  omega

/-- One step of a run, with `u` the state after phases 1 and 2: the pass goes on, the next pass begins, or the run ends. -/
theorem RunsOn.step_cases (hends : s₀.EndsAt last) (h : RunsOn s₀ last (n + 1) s) :
    ∃ x d u, u = ({ s with x := x } : State).emitPhase (s₀.slotEmits s.pc) d ∧ u.pc = s.pc ∧
      RunsOn s₀ last (n + 1) u ∧
      ((u.pc < last ∧ step s = .next u.advancePc) ∨
       (u.pc = last ∧ u.idx + 1 ≠ u.total ∧ step s = .next u.advanceIdx.nextPass) ∨
       (u.pc = last ∧ u.idx + 1 = u.total ∧ step s = .next u.advanceIdx.finishRun)) := by
  obtain ⟨hlt, hend, hbefore⟩ := hends
  obtain ⟨x, d, hstep⟩ := step_of_running h.inbox_nil h.running (h.pc_le.trans_lt hlt)
  obtain ⟨hslotEnds, hslotEmits⟩ : s.slotEnds s.pc = s₀.slotEnds s.pc ∧ s.slotEmits s.pc = s₀.slotEmits s.pc := by
    simp only [CoreState.slotEnds, CoreState.slotEmits, h.ucode_eq, and_self]
  obtain ⟨_, _, hpc, _⟩ := emitPhase_frame { s with x := x } (s₀.slotEmits s.pc) d
  have hrun := (h.with_x x).emitPhase (s₀.slotEmits s.pc) d
  rw [hslotEnds, hslotEmits, State.retire] at hstep
  generalize hu : ({ s with x := x } : State).emitPhase (s₀.slotEmits s.pc) d = u at hstep hpc hrun
  refine ⟨x, d, u, hu.symm, hpc, hrun, ?_⟩
  obtain hbelow | hat := hrun.pc_le.lt_or_eq
  · rw [hbefore s.pc (hpc ▸ hbelow), endPhase_false] at hstep
    exact .inl ⟨hbelow, hstep⟩
  · rw [hpc.symm.trans hat, hend, endPhase_true] at hstep
    by_cases hlast : u.idx + 1 = u.total
    · exact .inr (.inr ⟨hat, hlast, endOfPass_last hlast ▸ hstep⟩)
    · exact .inr (.inl ⟨hat, hlast, endOfPass_next hlast ▸ hstep⟩)

/-! ### The counters of a well-formed program -/

/-- The counters of a run without anomaly, after the first `k` slots of the current pass: at most one vertex for each
earlier point and one for the current point if its pass has emitted. -/
structure Counted (s₀ s : State) (k : Nat) : Prop where
  emitted_eq : s.emitted.toNat = s₀.emissionsBefore k
  stray_eq : s.stray = 0
  vertices_le : s.vertices.toNat ≤ s.idx + s.emitted.toNat

theorem startRun_counted (s₀ : State) : Counted s₀ s₀.startRun 0 := ⟨rfl, rfl, Nat.le_refl _⟩

theorem emissionsBefore_mono (c : CoreState) : Monotone c.emissionsBefore :=
  monotone_nat_of_le_succ fun _ => Nat.le_add_right _ _

/-- A pass that may emit once has not emitted before its emitting slot, so the emission is no stray write. -/
theorem Counted.emission {k : Nat} (h : Counted s₀ s k) (hemits : s₀.slotEmits k = true)
    (hone : s₀.emissionsBefore (k + 1) ≤ 1) (d : RegIdx) : Counted s₀ (s.emission d) (k + 1) := by
  have hsucc : s₀.emissionsBefore (k + 1) = s₀.emissionsBefore k + 1 := by rw [CoreState.emissionsBefore, if_pos hemits]
  have hnone : s₀.emissionsBefore k = 0 := by omega
  have hemitted : s.emitted = false := Bool.toNat_eq_zero.mp (h.emitted_eq.trans hnone)
  refine ⟨?_, ?_, ?_⟩
  · rw [emission_emitted, hsucc, hnone]
    rfl
  · rw [emission_stray, hemitted]
    exact h.stray_eq
  · have hvertices := h.vertices_le
    rw [hemitted, Bool.toNat_false] at hvertices
    rw [emission_vertices, emission_idx, emission_emitted, sat32Succ_toNat, Bool.toNat_true]
    omega

theorem Counted.emitPhase {k : Nat} (h : Counted s₀ s k) (hone : s₀.emissionsBefore (k + 1) ≤ 1) (d : RegIdx) :
    Counted s₀ (s.emitPhase (s₀.slotEmits k) d) (k + 1) := by
  cases hemits : s₀.slotEmits k with
  | false =>
    have hsame : s₀.emissionsBefore (k + 1) = s₀.emissionsBefore k := by simp [CoreState.emissionsBefore, hemits]
    exact ⟨h.emitted_eq.trans hsame.symm, h.stray_eq, h.vertices_le⟩
  | true => exact h.emission hemits hone d

/-- The point of a pass that ends counts as an earlier point from then on. -/
theorem Counted.vertices_le_succ {k : Nat} (h : Counted s₀ s k) : s.vertices.toNat ≤ s.idx + 1 :=
  h.vertices_le.trans (Nat.add_le_add_left (Bool.toNat_le _) _)

theorem Counted.nextPass {k : Nat} (h : Counted s₀ s k) : Counted s₀ s.advanceIdx.nextPass 0 :=
  ⟨rfl, h.stray_eq, h.vertices_le_succ⟩

/-! ### The end of a well-formed run -/

theorem runSteps_succ (h : step s = .next t) : runSteps (n + 1) s = runSteps n t := by
  rw [runSteps, h]

theorem runSteps_coreInv (h : s.toCoreState.Inv) (hrun : runSteps n s = .next t) : t.toCoreState.Inv := by
  induction n generalizing s with
  | zero =>
    injection hrun with hrun
    exact hrun ▸ h
  | succ n ih =>
    rw [runSteps] at hrun
    split at hrun
    · next u hstep => exact ih (step_coreInv h hstep) hrun
    · cases hrun
    · cases hrun

/-- A run whose passes emit at most once ends without a stray write and with at most one vertex for each point. -/
theorem RunsOn.ends_counted (hends : s₀.EndsAt last) (hone : s₀.emissionsBefore (last + 1) ≤ 1)
    (h : RunsOn s₀ last n s) (hcount : Counted s₀ s s.pc) :
    ∃ t, runSteps n s = .next t ∧ RunEnded s₀.toCoreState t.toCoreState ∧ t.total = s₀.startRun.total ∧ t.stray = 0 ∧
      t.vertices.toNat ≤ t.total := by
  induction n generalizing s with
  | zero => exact absurd h.pos (Nat.lt_irrefl 0)
  | succ n ih =>
    obtain ⟨x, d, u, hu, hpc, hrun, hcases⟩ := h.step_cases hends
    have hslot : s₀.emissionsBefore (s.pc + 1) ≤ 1 :=
      (emissionsBefore_mono _ (Nat.succ_le_succ h.pc_le)).trans hone
    have hx : Counted s₀ { s with x := x } s.pc := ⟨hcount.emitted_eq, hcount.stray_eq, hcount.vertices_le⟩
    have hcount : Counted s₀ u (u.pc + 1) := by
      rw [hpc, hu]
      exact hx.emitPhase hslot d
    obtain ⟨hbelow, hstep⟩ | ⟨hat, hlast, hstep⟩ | ⟨hat, hlast, hstep⟩ := hcases <;> rw [runSteps_succ hstep]
    · exact ih (hrun.advancePc hbelow) ⟨hcount.emitted_eq, hcount.stray_eq, hcount.vertices_le⟩
    · exact ih (hrun.nextPass hat hlast) hcount.nextPass
    · rw [hrun.eq_zero hat hlast]
      exact ⟨_, rfl, hrun.finishRun, hrun.total_eq, hcount.stray_eq, hcount.vertices_le_succ.trans_eq hlast⟩

/-- Settles O59: the invariant makes the collisions the stray writes, since the addresses do not wrap. -/
theorem wellFormedProgramsRunClean : Obligations.WellFormedProgramsRunClean := by
  rintro s hinbox ⟨last, hends, hone, _⟩ htotal
  obtain ⟨t, hrun, hended, htotal', hstray, hvertices⟩ :=
    (startRun_runsOn hinbox).ends_counted hends hone (startRun_counted s)
  have hinv := runSteps_coreInv (startRun_inv s) hrun
  have hcollisions : t.collisions = t.stray := hinv.collisions_eq (htotal'.trans_le htotal)
  exact ⟨_, t, hrun, hended, hcollisions.trans hstray, hstray, hvertices.trans_eq htotal'⟩

end Sys2Proof.Machine
end

section
/-! SUPPORT. The family of 20_memory.md: the bytes of a DMA word (R46, R47), which host operations are refused (R43, R44,
R95, R197), host reads (R45) and the unmapped offsets (R44, R96). -/

namespace Sys2Proof.Machine

open Sys2Proof Sys2Proof.Spec

variable {s : State} {op : HostOp} {off : Nat} {v : Word}

/-! ### The bytes of a DMA word (R46, R47) -/

theorem wordByte_big (v : Word) (j : Nat) : wordByte .big v j = v.extractLsb' (24 - 8 * j) 8 := by
  rw [wordByte, Nat.mul_sub]

theorem wordByte_little (v : Word) (j : Nat) : wordByte .little v j = v.extractLsb' (8 * j) 8 := rfl

/-- Settles O25. -/
theorem dmaWordOccupiesItsFourBytes : Obligations.DmaWordOccupiesItsFourBytes := by
  refine fun order m addr v => ⟨?big, ?little, fun a ha => Memory.read_writeWord_of_ne order m addr v ha⟩
  case big =>
    rintro rfl j hj
    rw [Memory.read_writeWord_of_lt .big m addr v hj, wordByte_big]
  case little =>
    rintro rfl j hj
    rw [Memory.read_writeWord_of_lt .little m addr v hj, wordByte_little]

/-! ### The three checks of a host operation (R43, R44) -/

theorem hostOp_of_not_wordWide (s : State) (hwide : ¬ op.WordWide) :
    hostOp op s = .refused (.hostAccessWidth op.width) := by
  rw [hostOp.eq_def, if_neg hwide]

theorem hostOp_of_not_aligned (s : State) (hwide : op.WordWide) (haligned : ¬ op.Aligned) :
    hostOp op s = .refused (.hostAccessMisaligned op.offset) := by
  rw [hostOp.eq_def, if_pos hwide, if_neg haligned]

theorem hostOp_of_not_inWindow (s : State) (hwide : op.WordWide) (haligned : op.Aligned) (hwindow : ¬ op.InWindow) :
    hostOp op s = .refused (.hostOffsetOutsideWindow op.offset) := by
  rw [hostOp.eq_def, if_pos hwide, if_pos haligned, if_neg hwindow]

/-- An operation that passes the checks is a word access at an aligned offset of the window. -/
theorem HostOp.WellFormed.word_access (h : op.WellFormed) :
    ∃ off, off % 4 = 0 ∧ off < 0x1000 ∧ (op = .read 4 off ∨ ∃ v, op = .write 4 off v) := by
  obtain ⟨hwide, haligned, hwindow⟩ := h
  cases op with
  | read width off => exact ⟨off, haligned, hwindow, .inl (congrArg (HostOp.read · off) hwide)⟩
  | write width off v => exact ⟨off, haligned, hwindow, .inr ⟨v, congrArg (HostOp.write · off v) hwide⟩⟩

/-! ### Writes to the register file and the microcode store (R92, R93, R95) -/

/-- The offsets of `WritesStorage` are those the address map leads to a register or to a slot. -/
theorem hostTarget_of_writesStorage (h : (HostOp.write 4 off v).WritesStorage) :
    (∃ n, hostTarget off = .regfile n) ∨ ∃ k, hostTarget off = .microcode k := by
  unfold HostOp.WritesStorage at h
  unfold hostTarget
  repeat' split
  all_goals first
    | omega
    | exact .inl ⟨_, rfl⟩
    | exact .inr ⟨_, rfl⟩

theorem writesStorage_of_regfile {n : RegIdx} (h4 : off % 4 = 0) (h : hostTarget off = .regfile n) :
    (HostOp.write 4 off v).WritesStorage := by
  obtain ⟨_, hregfile, _⟩ := hostTarget_inv h4
  have hoff := hregfile n h
  have hn := regIdx_toNat_lt n
  exact .inl (by omega)

theorem writesStorage_of_microcode {k : Fin Config.ucodeWords} (h4 : off % 4 = 0) (h : hostTarget off = .microcode k) :
    (HostOp.write 4 off v).WritesStorage := by
  obtain ⟨_, _, hmicrocode⟩ := hostTarget_inv h4
  have hoff := hmicrocode k h
  have hk := ucodeIdx_lt k
  exact .inr (by omega)

theorem hostWrite_refused_of_busy (hbusy : s.busy = true) (h : (HostOp.write 4 off v).WritesStorage) :
    hostWrite off v s = .refused (.hostWriteDuringRun off) := by
  rw [hostWrite.eq_def]
  obtain ⟨n, htarget⟩ | ⟨k, htarget⟩ := hostTarget_of_writesStorage h
  · rw [htarget]
    exact if_pos hbusy
  · rw [htarget]
    exact if_pos hbusy

theorem hostWrite_completes (h4 : off % 4 = 0) (h : s.busy = true → ¬ (HostOp.write 4 off v).WritesStorage) :
    ∃ t, hostWrite off v s = .next t := by
  rw [hostWrite.eq_def]
  cases htarget : hostTarget off with
  | regfile n => exact ⟨_, if_neg fun hbusy => h hbusy (writesStorage_of_regfile h4 htarget)⟩
  | microcode k => exact ⟨_, if_neg fun hbusy => h hbusy (writesStorage_of_microcode h4 htarget)⟩
  | _ => exact ⟨_, rfl⟩

/-! ### Which host operations complete (R43, R44, R95, R197) -/

theorem hostOp_completes (h : SoftwareMay op s) : ∃ t, hostOp op s = .next t := by
  obtain ⟨hwf, hstorage⟩ := h
  obtain ⟨off, h4, hwindow, rfl | ⟨v, rfl⟩⟩ := hwf.word_access
  · exact ⟨_, hostOp_read s h4 hwindow⟩
  · rw [hostOp_write v s h4 hwindow]
    exact hostWrite_completes h4 hstorage

theorem hostOp_refused_of_busy (hwf : op.WellFormed) (hbusy : s.busy = true) (hstorage : op.WritesStorage) :
    hostOp op s = .refused (.hostWriteDuringRun op.offset) := by
  obtain ⟨off, h4, hwindow, rfl | ⟨v, rfl⟩⟩ := hwf.word_access
  · exact hstorage.elim
  · rw [hostOp_write v s h4 hwindow]
    exact hostWrite_refused_of_busy hbusy hstorage

/-- Settles O49. -/
theorem hostOperationsRefusedExactly : Obligations.HostOperationsRefusedExactly := fun _ s =>
  ⟨hostOp_completes, hostOp_of_not_wordWide s, hostOp_of_not_aligned s, hostOp_of_not_inWindow s, hostOp_refused_of_busy⟩

/-! ### Reads, and writes to no register (R44, R45, R96) -/

/-- Settles O50: a read puts one word on the host port and uses free values, which lie outside the core. -/
theorem hostReadsHaveNoSideEffect : Obligations.HostReadsHaveNoSideEffect := by
  intro s t width off h
  obtain ⟨_, ⟨_, v, n, hread, rfl⟩ | ⟨_, _, hwrite, _⟩⟩ := hostOp_cases h
  · cases hread
    exact ⟨rfl, rfl, rfl, rfl, v, rfl⟩
  · cases hwrite

theorem hostWrite_of_unmapped (s : State) (v : Word) (h : hostTarget off = .unmapped) : hostWrite off v s = .next s := by
  rw [hostWrite.eq_def, h]

/-- Settles O44. -/
theorem unmappedWritesDoNothing : Obligations.UnmappedWritesDoNothing := by
  intro s off v h4 hoff
  rw [hostOp_write v s h4 (by omega), hostWrite_of_unmapped s v (hostTarget_unmapped hoff)]

end Sys2Proof.Machine
end

section
/-! SUPPORT. The family of 30_encoding.md: the word, the record of R67 and the instruction carry the same information, but
for the reserved bits of R65. Each of the two maps between neighbours is inverted once, and the statements about `decode`
and `encode` follow from these inversions. -/

namespace Sys2Proof

/-! ### The record and the instruction (R63, R64) -/

/-- The four bits of OPCODE have the sixteen values of R63 and R64 together. -/
theorem opcode_enumeration (o : Opcode) : o ∈ ([0, 1, 2, 3, 4, 5, 6, 7, 8, 9, 10, 11, 12, 13, 14, 15] : List Opcode) := by
  revert o
  decide

/-- The sixteen opcodes name sixteen different constructors, each of which keeps the other fields. -/
theorem fields_toInstr (f : Fields) : f.toInstr.fields = f := by
  obtain ⟨eop, emit, a, b, op, d⟩ := f
  have hop := opcode_enumeration op
  fin_cases hop <;> rfl

theorem toInstr_fields (i : Instr) : i.fields.toInstr = i := by
  cases i <;> rfl

theorem fields_decode (w : Word) : (decode w).fields = wordFields w := fields_toInstr _

/-! ### The word and the record (R61, R65, R67) -/

/-- The slice of each field passes over the fields below it and stops short of those above it. -/
theorem wordFields_toWord (f : Fields) : wordFields f.toWord = f := by
  simp (disch := decide) only [wordFields, Fields.toWord, BitVec.extractLsb'_append_eq_of_le,
    BitVec.extractLsb'_append_eq_of_add_le, BitVec.getLsbD_append]
  simp

/-- Bit by bit: the fields cover the bits the mask keeps, and RSV, written as 0, those it clears. -/
theorem toWord_wordFields (w : Word) : (wordFields w).toWord = w &&& 0xC1FFFFFF := by
  apply BitVec.eq_of_getLsbD_eq
  intro k hk
  simp only [wordFields, Fields.toWord, BitVec.getLsbD_append, BitVec.getLsbD_and, BitVec.getLsbD_extractLsb']
  interval_cases k <;> simp

/-! ### The decoder and the encoder -/

/-- Settles O1. -/
theorem decodeInvertsEncode : Obligations.DecodeInvertsEncode := fun i =>
  calc decode (encode i)
    _ = i.fields.toInstr := congrArg Fields.toInstr (wordFields_toWord i.fields)
    _ = i := toInstr_fields i

/-- Settles O2. -/
theorem encodeOfDecodeClearsReservedBits : Obligations.EncodeOfDecodeClearsReservedBits := fun w =>
  calc encode (decode w)
    _ = (wordFields w).toWord := congrArg Fields.toWord (fields_decode w)
    _ = w &&& 0xC1FFFFFF := toWord_wordFields w

/-- The decoder sees no more of a word than the mask keeps (R65). -/
theorem decode_masked (w : Word) : decode (w &&& 0xC1FFFFFF) = decode w := by
  rw [← encodeOfDecodeClearsReservedBits w, decodeInvertsEncode]

/-- Settles O3: the encoder recovers the masked word from the instruction, and the decoder the instruction from it. -/
theorem sameInstructionIffEqualOutsideReservedBits : Obligations.SameInstructionIffEqualOutsideReservedBits := by
  refine fun w w' => ⟨fun hinstr => ?masked, fun hmasked => ?decoded⟩
  case masked => rw [← encodeOfDecodeClearsReservedBits w, hinstr, encodeOfDecodeClearsReservedBits w']
  case decoded => rw [← decode_masked w, hmasked, decode_masked w']

/-- Settles O4. -/
theorem decodedFieldsAreTheBitFields : Obligations.DecodedFieldsAreTheBitFields := fun w =>
  have hfields := fields_decode w
  ⟨congrArg Fields.eop hfields, congrArg Fields.emit hfields, congrArg Fields.a hfields, congrArg Fields.b hfields,
    congrArg Fields.op hfields, congrArg Fields.d hfields⟩

/-- Settles O5. -/
theorem sampleWordsDecode : Obligations.SampleWordsDecode := ⟨rfl, rfl, rfl, rfl, rfl, rfl, rfl, rfl, rfl⟩

end Sys2Proof
end

section
/-! SUPPORT. The family of 40_control_status.md: the start command of CTL (R80 to R84), the configuration registers (R85
to R88), the counters (R89, R90) and the two storage windows (R91 to R94). -/

namespace Sys2Proof.Machine

open Sys2Proof Sys2Proof.Spec

variable {s : State} {off : Nat} {v w : Word}

/-! ### Writes, by where the address map leads (R42) -/

/-- CTL is at the offset 0. -/
theorem hostOp_write_ctl (v : Word) (s : State) : hostOp (.write 4 0x00 v) s = .next (s.commandCtl v) :=
  hostOp_write v s (by decide) (by decide)

theorem hostWrite_of_counter (v : Word) (s : State)
    (h : hostTarget off = .vertices ∨ hostTarget off = .collisions ∨ hostTarget off = .stray) :
    hostWrite off v s = .next s := by
  rw [hostWrite.eq_def]
  obtain h | h | h := h <;> rw [h]

theorem hostWrite_of_regfile {n : RegIdx} (v : Word) (hidle : s.busy = false) (h : hostTarget off = .regfile n) :
    hostWrite off v s = .next (s.setReg n v) := by
  rw [hostWrite.eq_def, h]
  exact if_neg (Bool.eq_false_iff.mp hidle)

theorem hostWrite_of_microcode {k : Fin Config.ucodeWords} (v : Word) (hidle : s.busy = false)
    (h : hostTarget off = .microcode k) : hostWrite off v s = .next (s.setUcode k v) := by
  rw [hostWrite.eq_def, h]
  exact if_neg (Bool.eq_false_iff.mp hidle)

/-! ### Reads, by whether the offset has a value (R84, R88, R89, R91, R94, R96) -/

theorem hostOp_read_of_some (h4 : off % 4 = 0) (hwindow : off < 0x1000) (h : s.readValue off = some w) :
    hostOp (.read 4 off) s = .next { s with port := .readData off w :: s.port } := by
  rw [hostOp_read s h4 hwindow, hostRead_of_some h, State.putReadData]

theorem hostOp_read_of_none (h4 : off % 4 = 0) (hwindow : off < 0x1000) (h : s.readValue off = none) :
    hostOp (.read 4 off) s =
      .next { s with port := .readData off (Config.draw s.draws) :: s.port, draws := s.draws + 1 } := by
  rw [hostOp_read s h4 hwindow, hostRead_of_none h, State.putReadData, State.useDraws, State.freeWord]

theorem readValue_ctl (s : State) : s.readValue 0x00 = some (if s.fsm = .running then 1 else 0) := by
  change some (BitVec.zeroExtend Config.wordBits (BitVec.ofBool (s.fsm == .running))) = _
  cases s.fsm <;> rfl

theorem readValue_of_regfile {n : RegIdx} (s : State) (h : hostTarget off = .regfile n) :
    s.readValue off = some (s.reg n) := by
  rw [State.readValue.eq_def, h]

theorem readValue_of_microcode {k : Fin Config.ucodeWords} (s : State) (h : hostTarget off = .microcode k) :
    s.readValue off = none := by
  rw [State.readValue.eq_def, h]

theorem readValue_of_unmapped (s : State) (h : hostTarget off = .unmapped) : s.readValue off = none := by
  rw [State.readValue.eq_def, h]

/-- Every aligned offset of the MICROCODE window is that of a slot. -/
theorem exists_microcode_slot (h4 : off % 4 = 0) (hlow : 0x800 ≤ off) (hhigh : off < 0x1000) :
    ∃ k : Fin Config.ucodeWords, off = 0x800 + 4 * k.val := by
  have hslot : (off - 0x800) / 4 < 512 := by omega
  exact ⟨⟨(off - 0x800) / 4, hslot⟩, show off = 0x800 + 4 * ((off - 0x800) / 4) by omega⟩

/-! ### The start command (R81 to R83) -/

theorem commandCtl_of_clear (s : State) (hv : v.getLsbD 0 = false) : s.commandCtl v = s := by
  rw [State.commandCtl, if_neg (Bool.eq_false_iff.mp hv)]

theorem commandCtl_ignored (hbusy : s.busy = true) (hpolicy : s.policy.startWhileBusy = .ignore) :
    s.commandCtl v = s := by
  simp [State.commandCtl, hbusy, hpolicy]

theorem commandCtl_of_start (hv : v.getLsbD 0 = true)
    (haccepted : s.busy = false ∨ s.policy.startWhileBusy = .restart) : s.commandCtl v = s.startRun := by
  obtain hidle | hrestart := haccepted
  · simp [State.commandCtl, hv, hidle]
  · simp [State.commandCtl, hv, hrestart]

/-- What begins a run performs the start action, whichever of the two rules accepts it. -/
theorem hostOp_of_beginsRun {op : HostOp} (h : BeginsRun op s) : hostOp op s = .next s.startRun := by
  obtain ⟨v, rfl, hv, haccepted⟩ := h
  exact (hostOp_write_ctl v s).trans (congrArg Host.Outcome.next (commandCtl_of_start hv haccepted))

theorem beginsRun_of_idle (hv : v.getLsbD 0 = true) (hidle : s.busy = false) : BeginsRun (.write 4 0x00 v) s :=
  ⟨v, rfl, hv, .inl hidle⟩

theorem beginsRun_of_restart (hv : v.getLsbD 0 = true) (hrestart : s.policy.startWhileBusy = .restart) :
    BeginsRun (.write 4 0x00 v) s :=
  ⟨v, rfl, hv, .inr hrestart⟩

@[simp] theorem startRun_busy (s : State) : s.startRun.busy = true := rfl

/-- Settles O38. -/
theorem acceptedStartBeginsARun : Obligations.AcceptedStartBeginsARun := by
  intro s v hv hidle
  have hpoints : 1 ≤ s.startRun.total := total_pos _
  refine ⟨s.startRun, hostOp_of_beginsRun (beginsRun_of_idle hv hidle), ?_⟩
  simp [hpoints]

/-- Settles O39. -/
theorem startWhileBusyFollowsThePolicy : Obligations.StartWhileBusyFollowsThePolicy := by
  refine fun s v hv hbusy => ⟨fun hignore => ?ignore, fun hrestart => ?restart⟩
  case ignore => rw [hostOp_write_ctl, commandCtl_ignored hbusy hignore]
  case restart =>
    refine ⟨s.startRun, hostOp_of_beginsRun (beginsRun_of_restart hv hrestart), ?_⟩
    simp

/-- Settles O40. -/
theorem writingZeroToCtlDoesNothing : Obligations.WritingZeroToCtlDoesNothing := by
  intro s v hv
  rw [hostOp_write_ctl, commandCtl_of_clear s hv]

/-- Settles O41. -/
theorem ctlReadsBusy : Obligations.CtlReadsBusy := fun s =>
  hostOp_read_of_some (by decide) (by decide) (readValue_ctl s)

/-! ### The configuration registers and the offsets without a value (R85 to R88, R94, R96) -/

theorem hostOp_write_dmaBase (v : Word) (s : State) : hostOp (.write 4 0x04 v) s = .next (s.setDmaBase v) :=
  hostOp_write v s (by decide) (by decide)

theorem hostOp_write_meshW (v : Word) (s : State) : hostOp (.write 4 0x08 v) s = .next (s.setMeshW v) :=
  hostOp_write v s (by decide) (by decide)

theorem hostOp_write_meshH (v : Word) (s : State) : hostOp (.write 4 0x0C v) s = .next (s.setMeshH v) :=
  hostOp_write v s (by decide) (by decide)

/-- Settles O42: a configuration write leaves `busy`, so the start is accepted in the state so written, and the start
action copies what it finds there. -/
theorem configurationWritesReachTheNextRun : Obligations.ConfigurationWritesReachTheNextRun := by
  refine fun s v => ⟨hostOp_write_dmaBase v s, hostOp_write_meshW v s, hostOp_write_meshH v s, fun start hstart hidle => ?_⟩
  have latches (s' : State) (hbusy : s'.busy = s.busy) : hostOp (.write 4 0x00 start) s' = .next s'.startRun :=
    hostOp_of_beginsRun (beginsRun_of_idle hstart (hbusy.trans hidle))
  exact ⟨⟨_, latches _ (setDmaBase_busy s v), startRun_runBase _⟩, ⟨_, latches _ (setMeshW_busy s v), startRun_runW _⟩,
    ⟨_, latches _ (setMeshH_busy s v), startRun_runH _⟩⟩

/-- Settles O43. -/
theorem writeOnlyReadsReturnFreeValues : Obligations.WriteOnlyReadsReturnFreeValues := by
  intro s off h4 hoff
  refine hostOp_read_of_none h4 (by omega) ?_
  obtain rfl | rfl | rfl | ⟨hlow, hhigh⟩ | hunmapped := hoff
  · rfl
  · rfl
  · rfl
  · obtain ⟨k, rfl⟩ := exists_microcode_slot h4 hlow hhigh
    exact readValue_of_microcode s (hostTarget_microcode k)
  · exact readValue_of_unmapped s (hostTarget_unmapped hunmapped)

/-! ### The counters (R89, R90) -/

/-- Settles O45. -/
theorem countersReadAsTheyStand : Obligations.CountersReadAsTheyStand := fun _ =>
  ⟨hostOp_read_of_some (by decide) (by decide) rfl, hostOp_read_of_some (by decide) (by decide) rfl,
    hostOp_read_of_some (by decide) (by decide) rfl⟩

/-- Settles O46. -/
theorem counterWritesDoNothing : Obligations.CounterWritesDoNothing := by
  refine fun s v => ⟨?vertices, ?collisions, ?stray⟩
  case vertices => rw [hostOp_write v s (by decide) (by decide), hostWrite_of_counter v s (.inl rfl)]
  case collisions => rw [hostOp_write v s (by decide) (by decide), hostWrite_of_counter v s (.inr (.inl rfl))]
  case stray => rw [hostOp_write v s (by decide) (by decide), hostWrite_of_counter v s (.inr (.inr rfl))]

/-! ### The storage windows (R91 to R93) -/

/-- Settles O47. -/
theorem regfileWindowReadsAndWrites : Obligations.RegfileWindowReadsAndWrites := by
  intro s n
  have hn := regIdx_toNat_lt n
  have h4 : (0x400 + 4 * n.toNat) % 4 = 0 := by omega
  have hwindow : 0x400 + 4 * n.toNat < 0x1000 := by omega
  refine ⟨hostOp_read_of_some h4 hwindow (readValue_of_regfile s (hostTarget_regfile n)), fun v hidle => ?_⟩
  refine ⟨s.setReg n v, ?written, reg_setReg_self s n v, fun _ hr => reg_setReg_of_ne s hr v, rfl⟩
  rw [hostOp_write v s h4 hwindow, hostWrite_of_regfile v hidle (hostTarget_regfile n)]

/-- Settles O48. -/
theorem microcodeWindowWrites : Obligations.MicrocodeWindowWrites := by
  intro s k v hidle
  have hk := ucodeIdx_lt k
  rw [hostOp_write v s (by omega) (by omega), hostWrite_of_microcode v hidle (hostTarget_microcode k), State.setUcode]

end Sys2Proof.Machine
end

section
/-! SUPPORT. The family of 41_decoder_alu.md, part 1: an enabled core step (R100, R101), the phases 2 and 3 that follow
every operation (R102, R110, R111, R116), and the sixteen opcodes (R103 to R109). -/

namespace Sys2Proof.Machine

open Sys2Proof Sys2Proof.Spec

variable {s t : State}

/-! ### The turn of the core (R100, R101) -/

theorem step_of_inbox_nil (h : s.inbox = []) : step s = coreTurn s := by
  rw [step.eq_def, h]

theorem step_of_core {rest : List Stimulus} (h : s.inbox = .core :: rest) : step s = coreTurn s.takeTurn := by
  rw [step.eq_def, h]

/-- The core's turn is taken off the schedule, where there is one to take. -/
theorem step_of_coreHasTurn (h : CoreHasTurn s) : step s = coreTurn s.takeTurn := by
  obtain hnil | ⟨rest, hcons⟩ := h
  · rw [step_of_inbox_nil hnil, takeTurn_of_inbox_nil hnil]
  · exact step_of_core hcons

theorem coreTurn_of_running (hrun : s.fsm = .running) (hpc : s.pc < Config.ucodeWords) :
    coreTurn s = exec (decode s.ucode[s.pc]) s := by
  rw [coreTurn.eq_def, fetch_of_running hrun hpc]

theorem coreTurn_of_fetch_none (h : s.fetch = none) : coreTurn s = .next s := by
  rw [coreTurn.eq_def, h]

theorem fetch_eq_none {c : CoreState} (h : c.fsm ≠ .running ∨ Config.ucodeWords ≤ c.pc) : c.fetch = none := by
  refine Option.eq_none_iff_forall_ne_some.mpr fun i hi => ?_
  obtain ⟨hrun, hpc, _⟩ := fetch_eq_some hi
  obtain hidle | hexhausted := h
  · exact hidle hrun
  · exact Nat.not_lt.mpr hexhausted hpc

/-- Settles O6: taking a turn off the schedule changes neither the program counter nor the store. -/
theorem stepRunsTheDecodedInstruction : Obligations.StepRunsTheDecodedInstruction := by
  refine fun s hpc hrun => ⟨fun hnil => ?unscheduled, fun rest hcons => ?scheduled⟩
  case unscheduled => rw [step_of_inbox_nil hnil, coreTurn_of_running hrun hpc]
  case scheduled =>
    rw [step_of_core hcons, takeTurn_of_inbox_cons hcons]
    exact coreTurn_of_running (s := { s with inbox := rest }) hrun hpc

/-- Settles O7. -/
theorem coreDoesNothingUnlessEnabled : Obligations.CoreDoesNothingUnlessEnabled := fun s hturn hdisabled =>
  (step_of_coreHasTurn hturn).trans (coreTurn_of_fetch_none (s := s.takeTurn) (fetch_eq_none hdisabled))

/-! ### Phases 2 and 3 (R102)

`Retired` says of the state before and after an instruction what its flags have done. It reads no register of the state
before, so `retire_retired` serves the instructions that write one as well. -/

theorem retire_untouched (s : State) (eop emit : Bool) (d : RegIdx) : Untouched s (s.retire eop emit d) := by
  obtain ⟨_, hucode, hdmaBase, hmeshW, hmeshH, hrunBase, hrunW, hrunH, hinbox, hpolicy, _⟩ := retire_frame s eop emit d
  exact ⟨hucode, hdmaBase, hmeshW, hmeshH, hrunBase, hrunW, hrunH, hinbox, hpolicy⟩

/-- Phase 3 leaves alone what an emission changes. -/
theorem retire_emission_fields (s : State) (eop emit : Bool) (d : RegIdx) :
    (s.retire eop emit d).vertices = (s.emitPhase emit d).vertices ∧
    (s.retire eop emit d).collisions = (s.emitPhase emit d).collisions ∧
    (s.retire eop emit d).stray = (s.emitPhase emit d).stray ∧
    (s.retire eop emit d).written = (s.emitPhase emit d).written ∧
    (s.retire eop emit d).mem = (s.emitPhase emit d).mem := by
  obtain ⟨_, _, _, _, _, _, _, _, hvertices, hcollisions, hstray, hwritten, hmem, _⟩ :=
    endPhase_frame (s.emitPhase emit d) eop
  exact ⟨hvertices, hcollisions, hstray, hwritten, hmem⟩

theorem retire_emits (s : State) (eop : Bool) (d : RegIdx) : Emits d s (s.retire eop true d) := by
  obtain ⟨hvertices, hcollisions, hstray, hwritten, hmem⟩ := retire_emission_fields s eop true d
  rw [emitPhase_true] at hvertices hcollisions hstray hwritten hmem
  refine ⟨hvertices.trans (emission_vertices s d), hcollisions.trans (emission_collisions s d),
    hstray.trans (emission_stray s d), fun a => ?member, fun k hk j hj => ?word, fun a hout => ?outside⟩
  case member => rw [hwritten, emission_written, mem_insertAddr]
  case word => rw [hmem, emission_read_word s d hk hj, retire_reg, State.emitWord]
  case outside => rw [hmem, emission_read_of_ne s d fun j hj heq => hout ⟨j, hj, heq⟩]

theorem retire_emitsNothing (s : State) (eop : Bool) (d : RegIdx) : EmitsNothing s (s.retire eop false d) := by
  obtain ⟨hvertices, hcollisions, hstray, hwritten, hmem⟩ := retire_emission_fields s eop false d
  exact ⟨hvertices, hcollisions, hstray, hwritten, fun a => congrArg (Memory.read · a) hmem⟩

/-- The total is fixed through phase 2, which moves neither the point index nor the run's copies. -/
theorem emitPhase_total (s : State) (emit : Bool) (d : RegIdx) : (s.emitPhase emit d).total = s.total := by
  cases emit
  · rfl
  · exact emission_total s d

theorem retire_last (emit : Bool) (d : RegIdx) (h : s.idx + 1 = s.total) :
    s.retire true emit d = (s.emitPhase emit d).advanceIdx.finishRun := by
  obtain ⟨_, _, _, _, hidx, _⟩ := emitPhase_frame s emit d
  exact endOfPass_last (by rw [hidx, emitPhase_total, h])

theorem retire_next (emit : Bool) (d : RegIdx) (h : s.idx + 1 ≠ s.total) :
    s.retire true emit d = (s.emitPhase emit d).advanceIdx.nextPass := by
  obtain ⟨_, _, _, _, hidx, _⟩ := emitPhase_frame s emit d
  exact endOfPass_next (by rwa [hidx, emitPhase_total])

theorem retire_endsPass (s : State) (emit : Bool) (d : RegIdx) :
    EndsPass (emit || s.emitted) s (s.retire true emit d) := by
  obtain ⟨_, _, hpc, hfsm, hidx, _, _, _, _, _, _, hirq, _, _, _, hemitted⟩ := emitPhase_frame s emit d
  by_cases hlast : s.idx + 1 = s.total
  · rw [retire_last emit d hlast]
    exact ⟨congrArg (· + 1) hidx, fun _ => ⟨rfl, congrArg (· + 1) hirq, hpc, hemitted⟩, fun hne => absurd hlast hne⟩
  · rw [retire_next emit d hlast]
    exact ⟨congrArg (· + 1) hidx, fun heq => absurd heq hlast, fun _ => ⟨hfsm, hirq, rfl, rfl⟩⟩

theorem retire_flowsOn (s : State) (emit : Bool) (d : RegIdx) :
    FlowsOn (emit || s.emitted) s (s.retire false emit d) := by
  obtain ⟨_, _, hpc, hfsm, hidx, _, _, _, _, _, _, hirq, _, _, _, hemitted⟩ := emitPhase_frame s emit d
  exact ⟨hidx, hfsm, hirq, congrArg (· + 1) hpc, hemitted⟩

/-- The four writes of an emission stand on the port in their order. -/
theorem emitPhase_port (s : State) (eop emit : Bool) (d : RegIdx) :
    (s.emitPhase emit d).port = (if emit = true then vectorEvents d s (s.retire eop emit d) else []) ++ s.port := by
  cases emit with
  | false => rfl
  | true =>
    rw [emitPhase_true, emission_port, writeVector_port]
    simp only [vectorEvents, retire_reg, State.emitWord, if_true, List.cons_append, List.nil_append]

/-- Phase 3 shows nothing on the ports but the pulse of the last pass, after the writes (R174). -/
theorem retire_port (s : State) (eop emit : Bool) (d : RegIdx) :
    (s.retire eop emit d).port =
      (if eop = true ∧ s.idx + 1 = s.total then [.irqPulse] else []) ++ (s.emitPhase emit d).port := by
  cases eop with
  | false => rfl
  | true =>
    by_cases hlast : s.idx + 1 = s.total
    · rw [retire_last emit d hlast, if_pos ⟨rfl, hlast⟩]
      rfl
    · rw [retire_next emit d hlast, if_neg fun h => hlast h.2]
      rfl

theorem retire_retired (s : State) (eop emit : Bool) (d : RegIdx) : Retired eop emit d s (s.retire eop emit d) := by
  refine ⟨retire_untouched s eop emit d, ?emits, ?silent, ?ends, ?flows, ?port⟩
  case emits => rintro rfl; exact retire_emits s eop d
  case silent => rintro rfl; exact retire_emitsNothing s eop d
  case ends => rintro rfl; exact retire_endsPass s emit d
  case flows => rintro rfl; exact retire_flowsOn s emit d
  case port => rw [retire_port, emitPhase_port s eop emit d, List.append_assoc]

/-! ### The operations (R103 to R109) -/

theorem retire_draws (s : State) (eop emit : Bool) (d : RegIdx) : (s.retire eop emit d).draws = s.draws := by
  obtain ⟨_, _, _, _, _, _, _, _, _, _, hdraws⟩ := retire_frame s eop emit d
  exact hdraws

/-- The step of an instruction without an operation. -/
theorem retire_spec (s : State) (eop emit : Bool) (d : RegIdx) :
    (s.retire eop emit d).x = s.x ∧ (s.retire eop emit d).draws = s.draws ∧
    Retired eop emit d s (s.retire eop emit d) := by
  obtain ⟨hx, _⟩ := retire_frame s eop emit d
  exact ⟨hx, retire_draws s eop emit d, retire_retired s eop emit d⟩

/-- The step of an operation that writes `v` to its destination: the flags see the register written (R117). -/
theorem setReg_retire_spec (s : State) (eop emit : Bool) (d : RegIdx) (v : Word) :
    ((s.setReg d v).retire eop emit d).reg d = v ∧ ((s.setReg d v).retire eop emit d).draws = s.draws ∧
    OnlyReg d s ((s.setReg d v).retire eop emit d) ∧ Retired eop emit d s ((s.setReg d v).retire eop emit d) := by
  refine ⟨?written, retire_draws _ eop emit d, fun r hr => ?others, retire_retired (s.setReg d v) eop emit d⟩
  case written => rw [retire_reg, reg_setReg_self]
  case others => rw [retire_reg, reg_setReg_of_ne s hr]

/-- Settles O10. -/
theorem nopActsOnlyThroughItsFlags : Obligations.NopActsOnlyThroughItsFlags := fun eop emit _ _ d s =>
  ⟨s.retire eop emit d, rfl, retire_spec s eop emit d⟩

/-- R109: an instruction with one of the ten undefined opcodes is its flags alone. -/
theorem exec_of_undefined {eop emit : Bool} {a b d : RegIdx} {i : Instr} (s : State)
    (h : i ∈ [.undef4 eop emit a b d, .undef5 eop emit a b d, .undef7 eop emit a b d, .undef8 eop emit a b d,
      .undef9 eop emit a b d, .undef10 eop emit a b d, .undef11 eop emit a b d, .undef13 eop emit a b d,
      .undef14 eop emit a b d, .undef15 eop emit a b d]) :
    exec i s = .next (s.retire eop emit d) := by
  fin_cases h <;> rfl

/-- Settles O11. -/
theorem undefinedOpcodesActAsNop : Obligations.UndefinedOpcodesActAsNop := fun eop emit _ _ d s _ hundefined =>
  ⟨s.retire eop emit d, exec_of_undefined s hundefined, retire_spec s eop emit d⟩

/-- Settles O12. -/
theorem faddWritesTheSum : Obligations.FaddWritesTheSum := fun eop emit _ _ d s =>
  ⟨_, rfl, setReg_retire_spec s eop emit d _⟩

/-- Settles O13. -/
theorem fsubWritesTheDifference : Obligations.FsubWritesTheDifference := fun eop emit _ _ d s =>
  ⟨_, rfl, setReg_retire_spec s eop emit d _⟩

/-- Settles O14. -/
theorem fmulWritesTheProduct : Obligations.FmulWritesTheProduct := fun eop emit _ _ d s =>
  ⟨_, rfl, setReg_retire_spec s eop emit d _⟩

/-- Settles O15. -/
theorem i2fWritesTheConversion : Obligations.I2fWritesTheConversion := fun eop emit _ _ d s =>
  ⟨_, rfl, setReg_retire_spec s eop emit d _⟩

/-- Settles O16. -/
theorem copyMovesTheWord : Obligations.CopyMovesTheWord := fun eop emit _ _ d s =>
  ⟨_, rfl, setReg_retire_spec s eop emit d _⟩

end Sys2Proof.Machine
end

section
/-! SUPPORT. The family of 41_decoder_alu.md, part 2: the numeric functions are those of IEEE 754 binary32 (R104 to R107,
R112, R113). This part is about words and one rounding: a word is read through its sign and its 31 low bits, and the word
made of a sign and `roundMag` is correctly rounded. -/

namespace Sys2Proof.Machine

open Sys2Proof Sys2Proof.Spec

variable {w x y r : Word} {m b : Nat} {n n' sx sy : Bool} {q vx vy : Int}

/-! ### The three kinds of data, by the exponent and fraction bits -/

theorem isFinite_iff : IsFinite w ↔ magBits w < infBits := by
  have hlt := magBits_lt w
  rw [IsFinite, ne_eq, ← BitVec.toNat_inj, exponent_toNat, infBits]
  change ¬ _ = 255 ↔ _
  omega

theorem isInf_iff : IsInf w ↔ magBits w = infBits := by
  have hlt := magBits_lt w
  rw [IsInf, ← BitVec.toNat_inj, ← BitVec.toNat_inj, exponent_toNat, fraction_toNat, infBits]
  change _ = 255 ∧ _ = 0 ↔ _
  omega

theorem isNaNWord_iff : IsNaNWord w ↔ infBits < magBits w := by
  have hlt := magBits_lt w
  rw [IsNaNWord, ne_eq, ← BitVec.toNat_inj, ← BitVec.toNat_inj, exponent_toNat, fraction_toNat, infBits]
  change _ = 255 ∧ ¬ _ = 0 ↔ _
  omega

/-- A word is its sign and its 31 low bits. -/
theorem withSign_magBits (w : Word) : withSign (w.getLsbD 31) (magBits w) = w := by
  have hlt := word_toNat_lt w
  apply BitVec.eq_of_toNat_eq
  rw [withSign_toNat _ (magBits_lt w), ← word_msb, BitVec.msb_eq_decide, magBits]
  simp only [decide_eq_true_eq, Config.wordBits]
  split <;> omega

theorem scaled_eq (w : Word) : scaled w = signedMag (w.getLsbD 31) (magValue (magBits w)) := by
  simp only [scaled, signedMag, exponent_toNat, fraction_toNat, magValue_fields]
  split <;> split <;> push_cast <;> rfl

theorem scaled_withSign (n : Bool) (hb : b < 2 ^ 31) : scaled (withSign n b) = signedMag n (magValue b) := by
  rw [scaled_eq, sign_withSign n hb, magBits_withSign n hb]

theorem isInf_withSign (n : Bool) : IsInf (withSign n infBits) :=
  isInf_iff.mpr (magBits_withSign n (by decide))

/-! ### Signed magnitudes -/

theorem signedMag_eq_zero : signedMag n m = 0 ↔ m = 0 := by
  cases n <;> simp [signedMag]

theorem signedMag_mul (n n' : Bool) (m m' : Nat) : signedMag n m * signedMag n' m' = signedMag (n ^^ n') (m * m') := by
  cases n <;> cases n' <;> simp [signedMag]

/-- The other unit of the model: `2^-298` in place of `2^-149`. -/
theorem signedMag_mul_quantum (n : Bool) (m : Nat) : signedMag n m * 2 ^ 149 = signedMag n (m * 2 ^ 149) :=
  signedMag_mul n false m (2 ^ 149) |>.trans (by rw [Bool.xor_false])

theorem abs_signedMag (n : Bool) (m : Nat) : |signedMag n m| = m := by
  cases n <;> simp [signedMag]

theorem neg_signedMag (n : Bool) (m : Nat) : -signedMag n m = signedMag (!n) m := by
  cases n <;> simp [signedMag]

theorem eq_signedMag_natAbs (z : Int) : z = signedMag (decide (z < 0)) z.natAbs := by
  by_cases hneg : z < 0
  · simp [signedMag, hneg, abs_of_neg]
  · simp [signedMag, hneg, abs_of_nonneg (not_lt.mp hneg)]

theorem abs_signedMag_sub_same (n : Bool) (a m : Nat) : |signedMag n a - signedMag n m| = |(a : Int) - m| := by
  cases n
  · rfl
  · rw [abs_sub_comm]
    simp [signedMag, neg_add_eq_sub]

theorem abs_signedMag_sub_flip (n : Bool) (a m : Nat) : |signedMag (!n) a - signedMag n m| = ((a + m : Nat) : Int) := by
  rw [sub_eq_add_neg, neg_signedMag]
  have hsum : signedMag (!n) a + signedMag (!n) m = signedMag (!n) (a + m) := by
    cases n <;> simp [signedMag, add_comm]
  rw [hsum, abs_signedMag]

/-! ### One rounding (R112) -/

theorem overflowBound_eq : overflowBound = (((2 ^ 25 - 1) * 2 ^ 252 * 2 ^ 149 : Nat) : Int) := by
  norm_num [overflowBound]

theorem lsb_withSign (n : Bool) (hb : b < 2 ^ 31) (heven : b % 2 = 0) : (withSign n b).getLsbD 0 = false := by
  rw [BitVec.getLsbD, withSign_toNat n hb, Nat.testBit_zero, decide_eq_false_iff_not]
  split <;> omega

theorem roundMag_lt (m : Nat) : roundMag m < 2 ^ 31 := (roundMag_le m).trans_lt (by decide)

theorem scaled_mul_quantum (w : Word) :
    scaled w * 2 ^ 149 = signedMag (w.getLsbD 31) (magValue (magBits w) * 2 ^ 149) := by
  rw [scaled_eq, signedMag_mul_quantum]

/-- `roundMag_nearest` compares magnitudes. A number of the other sign is no nearer than the zero, which is among them. -/
theorem nearest_withSign (n : Bool) (h : m < (2 ^ 25 - 1) * 2 ^ 252 * 2 ^ 149) :
    Nearest (signedMag n m) (withSign n (roundMag m)) := by
  obtain ⟨hfinite, hnear⟩ := roundMag_nearest h
  have hlt := roundMag_lt m
  refine ⟨isFinite_iff.mpr (by rwa [magBits_withSign n hlt]), fun w _ => ?_⟩
  rw [scaled_mul_quantum, scaled_mul_quantum, scaled_withSign n hlt, scaled_eq w, sign_withSign n hlt,
    magBits_withSign n hlt, abs_signedMag_sub_same]
  by_cases hsign : w.getLsbD 31 = n
  · obtain ⟨hle, htie⟩ := hnear (magBits w)
    rw [hsign, abs_signedMag_sub_same]
    exact ⟨hle, fun heq hne => lsb_withSign n hlt (htie heq fun hb => hne (by rw [hb]))⟩
  · obtain ⟨hle, htie⟩ := hnear 0
    rw [Bool.eq_not_of_ne hsign, abs_signedMag_sub_flip]
    have hzero : |((magValue 0 * 2 ^ 149 : Nat) : Int) - m| = m := by simp [magValue]
    rw [hzero] at hle htie
    have hQ := Nat.two_pow_pos 149
    generalize 2 ^ 149 = Q at *
    refine ⟨by omega, fun heq hne => ?_⟩
    have hwQ : magValue (magBits w) * Q = 0 := by omega
    have hw : magValue (magBits w) = 0 := (Nat.mul_eq_zero.mp hwQ).resolve_right hQ.ne'
    refine lsb_withSign n hlt (htie (by omega) fun hb => hne ?_)
    have hr : magValue (roundMag m) = 0 := by rw [← hb]; rfl
    rw [hw, hr, signedMag_eq_zero.mpr rfl, signedMag_eq_zero.mpr rfl]

theorem correctlyRounded_withSign (n : Bool) (m : Nat) :
    CorrectlyRounded n (signedMag n m) (withSign n (roundMag m)) := by
  refine ⟨sign_withSign n (roundMag_lt m), fun hlt => ?_, fun hge => ?_⟩
  · rw [abs_signedMag, overflowBound_eq] at hlt
    exact nearest_withSign n (Int.ofNat_lt.mp hlt)
  · rw [abs_signedMag, overflowBound_eq] at hge
    rw [roundMag_overflow (Int.ofNat_le.mp hge)]
    exact isInf_withSign n

/-- A number that is itself a binary32 number has no nearer one. -/
theorem scaled_eq_of_nearest (h : Nearest (scaled w * 2 ^ 149) r) (hw : IsFinite w) : scaled r = scaled w := by
  obtain ⟨_, hnear⟩ := h
  obtain ⟨hle, _⟩ := hnear w hw
  rw [sub_self, abs_zero, abs_nonpos_iff, sub_eq_zero] at hle
  exact mul_right_cancel₀ (by positivity) hle

/-- The largest finite magnitude is below the bound of overflow. -/
theorem abs_scaled_lt_overflowBound (hw : IsFinite w) : |scaled w * 2 ^ 149| < overflowBound := by
  have hmax : magValue (magBits w) ≤ (2 ^ 24 - 1) * 2 ^ 253 := by
    rw [← magValue_grid (k := 253) (q := 2 ^ 24 - 1) (.inr (by decide)) (by decide)]
    have hlt := isFinite_iff.mp hw
    exact magValue_strictMono.monotone (by rw [infBits] at hlt; omega)
  rw [scaled_mul_quantum, abs_signedMag, overflowBound_eq, Int.ofNat_lt]
  exact Nat.mul_lt_mul_of_pos_right (hmax.trans_lt (by decide)) (Nat.two_pow_pos 149)

theorem exact_of_correctlyRounded (h : CorrectlyRounded n (scaled w * 2 ^ 149) r) (hw : IsFinite w) :
    IsFinite r ∧ scaled r = scaled w := by
  obtain ⟨_, hround, _⟩ := h
  have hnearest := hround (abs_scaled_lt_overflowBound hw)
  exact ⟨hnearest.1, scaled_eq_of_nearest hnearest hw⟩

end Sys2Proof.Machine
end

section
/-! SUPPORT. The family of 41_decoder_alu.md, part 3: the free NaN (R113), and the sum, the difference, the product and
the conversion (R104 to R107, R112). A word is tied to the datum it stands for once, in `Represents`; an operation is then
a case split over its two data. -/

namespace Sys2Proof.Machine

open Sys2Proof Sys2Proof.Spec

variable {w x y r : Word} {X Y : F32} {m : Nat} {n sx sy : Bool} {vx vy : Int}

/-! ### The free NaN (R113) -/

theorem exponent_or_infBits (w : Word) : (w ||| 0x7F800000).extractLsb' 23 8 = 255 := by
  rw [BitVec.extractLsb'_or]
  exact BitVec.or_allOnes

/-- Bit 0 lies in the fraction. -/
theorem isNaNWord_or_one (h : w.extractLsb' 23 8 = 255) : IsNaNWord (w ||| 1) := by
  refine ⟨?exponent, fun hfraction => ?fraction⟩
  case exponent =>
    rw [BitVec.extractLsb'_or, h]
    rfl
  case fraction =>
    have hbit := congrArg (BitVec.getLsbD · 0) hfraction
    simp at hbit

theorem isNaNWord_nanOf (w : Word) : IsNaNWord (nanOf w) := by
  rw [nanOf]
  by_cases hfraction : (w ||| 0x7F800000).extractLsb' 0 23 = 0
  · rw [if_pos hfraction]
    exact isNaNWord_or_one (exponent_or_infBits w)
  · rw [if_neg hfraction]
    exact ⟨exponent_or_infBits w, hfraction⟩

/-- The bits of the mask are the exponent bits. -/
theorem or_infBits_of_exponent (h : w.extractLsb' 23 8 = 255) : w ||| 0x7F800000 = w := by
  have hbit (j : Nat) : (w.extractLsb' 23 8).getLsbD j = (255 : BitVec 8).getLsbD j := by rw [h]
  apply BitVec.eq_of_getLsbD_eq
  intro k hk
  have hk' := hbit (k - 23)
  rw [BitVec.getLsbD_or]
  simp only [BitVec.getLsbD_extractLsb'] at hk'
  simp only [Config.wordBits] at hk
  interval_cases k <;> simp_all

theorem nanOf_of_isNaNWord (h : IsNaNWord w) : nanOf w = w := by
  obtain ⟨hexponent, hfraction⟩ := h
  rw [nanOf, or_infBits_of_exponent hexponent, if_neg hfraction]

/-- Settles O22. -/
theorem freeNanRangesOverNanWords : Obligations.FreeNanRangesOverNanWords := fun w =>
  ⟨isNaNWord_nanOf w, nanOf_of_isNaNWord⟩

/-! ### The datum of a word -/

/-- The word `w`, with `s` for its sign and `v` for its scaled value, stands for a datum. The sign and the value are those
of `w` itself, or both flipped, for the subtrahend of a difference. -/
inductive Represents (w : Word) (s : Bool) (v : Int) : F32 → Prop
  | nan (hw : IsNaNWord w) : Represents w s v .nan
  | inf (hw : IsInf w) : Represents w s v (.inf s)
  | finite (hw : IsFinite w) (m : Nat) (hv : v = signedMag s m) : Represents w s v (.finite s m)

theorem ofWord_represents (w : Word) : Represents w (w.getLsbD 31) (scaled w) (F32.ofWord w) := by
  rw [ofWord_eq]
  split
  · next hnan => exact .nan (isNaNWord_iff.mpr hnan)
  · split
    · next hinf => exact .inf (isInf_iff.mpr hinf)
    · next hnan hinf => exact .finite (isFinite_iff.mpr (lt_of_le_of_ne (not_lt.mp hnan) hinf)) _ (scaled_eq w)

theorem Represents.negate (h : Represents w sx vx X) : Represents w (!sx) (-vx) X.negate := by
  cases h with
  | nan hw => exact .nan hw
  | inf hw => exact .inf hw
  | finite hw m hv => exact .finite hw m (by rw [hv, neg_signedMag])

theorem inf_eq_withSign (hw : IsInf w) : withSign (w.getLsbD 31) infBits = w := by
  rw [← isInf_iff.mp hw, withSign_magBits]

/-! ### The clauses of IEEE 754

Each clause of `IsSum` and of `IsProduct` has operands of its own kinds, and a word is of one kind only. So the operands
of one clause leave the others nothing to say. -/

theorem kinds_exclusive (w : Word) :
    ¬ (IsFinite w ∧ IsInf w) ∧ ¬ (IsFinite w ∧ IsNaNWord w) ∧ ¬ (IsInf w ∧ IsNaNWord w) :=
  ⟨fun ⟨hfinite, hexponent, _⟩ => hfinite hexponent, fun ⟨hfinite, hexponent, _⟩ => hfinite hexponent,
    fun ⟨⟨_, hzero⟩, _, hfraction⟩ => hfraction hzero⟩

theorem isSum_of_nan (h : IsNaNWord x ∨ IsNaNWord y ∨ (IsInf x ∧ IsInf y ∧ x.getLsbD 31 ≠ sy)) (hr : IsNaNWord r) :
    IsSum x y sy vy r := by
  have hx := kinds_exclusive x
  have hy := kinds_exclusive y
  exact ⟨fun _ => hr, fun _ => by grind, fun _ => by grind, fun _ => by grind⟩

theorem isSum_of_inf_left (hxi : IsInf x) (h : IsFinite y ∨ (IsInf y ∧ x.getLsbD 31 = sy)) : IsSum x y sy vy x := by
  have hx := kinds_exclusive x
  have hy := kinds_exclusive y
  exact ⟨fun _ => by grind, fun _ => rfl, fun _ => by grind, fun _ => by grind⟩

theorem isSum_of_inf_right (hxf : IsFinite x) (hyi : IsInf y) (hr : IsInf r ∧ r.getLsbD 31 = sy) :
    IsSum x y sy vy r := by
  have hx := kinds_exclusive x
  have hy := kinds_exclusive y
  exact ⟨fun _ => by grind, fun _ => by grind, fun _ => hr, fun _ => by grind⟩

theorem isSum_of_finite (hxf : IsFinite x) (hyf : IsFinite y)
    (hr : CorrectlyRounded (if scaled x + vy = 0 then x.getLsbD 31 && sy else decide (scaled x + vy < 0))
      ((scaled x + vy) * 2 ^ 149) r) : IsSum x y sy vy r := by
  have hx := kinds_exclusive x
  have hy := kinds_exclusive y
  exact ⟨fun _ => by grind, fun _ => by grind, fun _ => by grind, fun _ => hr⟩

theorem isProduct_of_nan (h : IsNaNWord x ∨ IsNaNWord y ∨ (IsInf x ∧ IsFinite y ∧ scaled y = 0) ∨
    (IsFinite x ∧ scaled x = 0 ∧ IsInf y)) (hr : IsNaNWord r) : IsProduct x y r := by
  have hx := kinds_exclusive x
  have hy := kinds_exclusive y
  exact ⟨fun _ => hr, fun _ => by grind, fun _ => by grind⟩

theorem isProduct_of_inf (h : (IsInf x ∧ (IsInf y ∨ (IsFinite y ∧ scaled y ≠ 0))) ∨
    (IsFinite x ∧ scaled x ≠ 0 ∧ IsInf y)) (hr : IsInf r ∧ r.getLsbD 31 = (x.getLsbD 31 ^^ y.getLsbD 31)) :
    IsProduct x y r := by
  have hx := kinds_exclusive x
  have hy := kinds_exclusive y
  exact ⟨fun _ => by grind, fun _ => hr, fun _ => by grind⟩

theorem isProduct_of_finite (hxf : IsFinite x) (hyf : IsFinite y)
    (hr : CorrectlyRounded (x.getLsbD 31 ^^ y.getLsbD 31) (scaled x * scaled y) r) : IsProduct x y r := by
  have hx := kinds_exclusive x
  have hy := kinds_exclusive y
  exact ⟨fun _ => by grind, fun _ => by grind, fun _ => hr⟩

/-! ### The sum and the difference (R104, R105) -/

theorem inf_withSign (n : Bool) : IsInf (withSign n infBits) ∧ (withSign n infBits).getLsbD 31 = n :=
  ⟨isInf_withSign n, sign_withSign n (by decide)⟩

theorem isNaNWord_toWord_someNaN (op : FloatOp) (a b : Word) : IsNaNWord (FloatResult.someNaN.toWord op a b) :=
  isNaNWord_nanOf _

/-- An exact sum `z`, rounded once; a zero sum has a sign of its own, with nothing to round. -/
theorem correctlyRounded_sum (n : Bool) (z : Int) :
    CorrectlyRounded (if z = 0 then n else decide (z < 0)) (z * 2 ^ 149)
      (if z = 0 then withSign n 0 else withSign (decide (z < 0)) (roundMag (z.natAbs * 2 ^ 149))) := by
  by_cases hz : z = 0
  · rw [if_pos hz, if_pos hz, hz, Int.zero_mul, ← (signedMag_eq_zero (n := n)).mpr rfl]
    exact correctlyRounded_withSign n 0
  · have hq : z * 2 ^ 149 = signedMag (decide (z < 0)) (z.natAbs * 2 ^ 149) := by
      rw [← signedMag_mul_quantum, ← eq_signedMag_natAbs]
    rw [if_neg hz, if_neg hz, hq]
    exact correctlyRounded_withSign _ _

theorem add_isSum (op : FloatOp) (hX : Represents x (x.getLsbD 31) (scaled x) X) (hY : Represents y sy vy Y) :
    IsSum x y sy vy ((X.add Y).toWord op x y) := by
  cases hX with
  | nan hx => exact isSum_of_nan (.inl hx) (isNaNWord_toWord_someNaN op x y)
  | inf hx =>
    cases hY with
    | nan hy => exact isSum_of_nan (.inr (.inl hy)) (isNaNWord_toWord_someNaN op x y)
    | inf hy =>
      by_cases hsign : x.getLsbD 31 = sy
      · rw [F32.add, if_pos hsign, FloatResult.toWord, inf_eq_withSign hx]
        exact isSum_of_inf_left hx (.inr ⟨hy, hsign⟩)
      · rw [F32.add, if_neg hsign]
        exact isSum_of_nan (.inr (.inr ⟨hx, hy, hsign⟩)) (isNaNWord_toWord_someNaN op x y)
    | finite hy =>
      rw [F32.add, FloatResult.toWord, inf_eq_withSign hx]
      exact isSum_of_inf_left hx (.inl hy)
  | finite hx m hv =>
    cases hY with
    | nan hy => exact isSum_of_nan (.inr (.inl hy)) (isNaNWord_toWord_someNaN op x y)
    | inf hy => exact isSum_of_inf_right hx hy (inf_withSign sy)
    | finite hy m' hv' =>
      refine isSum_of_finite hx hy ?_
      simp only [F32.add, ← hv, ← hv', ← apply_ite, FloatResult.toWord]
      exact correctlyRounded_sum _ _

/-- Settles O17, by the kinds of the two operands. -/
theorem additionIsIeeeBinary32 : Obligations.AdditionIsIeeeBinary32 := fun x y =>
  add_isSum .add (ofWord_represents x) (ofWord_represents y)

/-- Settles O18: a difference is the sum with the second datum negated. -/
theorem subtractionIsIeeeBinary32 : Obligations.SubtractionIsIeeeBinary32 := fun x y =>
  add_isSum .sub (ofWord_represents x) (ofWord_represents y).negate

/-! ### The product (R106) -/

theorem mul_isProduct (op : FloatOp) (hX : Represents x (x.getLsbD 31) (scaled x) X)
    (hY : Represents y (y.getLsbD 31) (scaled y) Y) : IsProduct x y ((X.mul Y).toWord op x y) := by
  cases hX with
  | nan hx => exact isProduct_of_nan (.inl hx) (isNaNWord_toWord_someNaN op x y)
  | inf hx =>
    cases hY with
    | nan hy => exact isProduct_of_nan (.inr (.inl hy)) (isNaNWord_toWord_someNaN op x y)
    | inf hy => exact isProduct_of_inf (.inl ⟨hx, .inl hy⟩) (inf_withSign _)
    | finite hy m hv =>
      have hzero : scaled y = 0 ↔ m = 0 := by rw [hv, signedMag_eq_zero]
      by_cases hm : m = 0
      · rw [F32.mul, if_pos hm]
        exact isProduct_of_nan (.inr (.inr (.inl ⟨hx, hy, hzero.mpr hm⟩))) (isNaNWord_toWord_someNaN op x y)
      · rw [F32.mul, if_neg hm]
        exact isProduct_of_inf (.inl ⟨hx, .inr ⟨hy, hzero.not.mpr hm⟩⟩) (inf_withSign _)
  | finite hx m hv =>
    cases hY with
    | nan hy => exact isProduct_of_nan (.inr (.inl hy)) (isNaNWord_toWord_someNaN op x y)
    | inf hy =>
      have hzero : scaled x = 0 ↔ m = 0 := by rw [hv, signedMag_eq_zero]
      by_cases hm : m = 0
      · rw [F32.mul, if_pos hm]
        exact isProduct_of_nan (.inr (.inr (.inr ⟨hx, hzero.mpr hm, hy⟩))) (isNaNWord_toWord_someNaN op x y)
      · rw [F32.mul, if_neg hm]
        exact isProduct_of_inf (.inr ⟨hx, hzero.not.mpr hm, hy⟩) (inf_withSign _)
    | finite hy m' hv' =>
      refine isProduct_of_finite hx hy ?_
      rw [hv, hv', signedMag_mul]
      exact correctlyRounded_withSign _ _

/-- Settles O19, by the kinds of the two operands. -/
theorem multiplicationIsIeeeBinary32 : Obligations.MultiplicationIsIeeeBinary32 := fun x y =>
  mul_isProduct .mul (ofWord_represents x) (ofWord_represents y)

/-! ### Exact results (R112) -/

theorem exact_of_isSum (h : IsSum x y sy vy r) (hx : IsFinite x) (hy : IsFinite y) (hw : IsFinite w)
    (hexact : scaled w = scaled x + vy) : IsFinite r ∧ scaled r = scaled w := by
  obtain ⟨_, _, _, hrounded⟩ := h
  have hr := hrounded ⟨hx, hy⟩
  rw [← hexact] at hr
  exact exact_of_correctlyRounded hr hw

theorem exact_of_isProduct (h : IsProduct x y r) (hx : IsFinite x) (hy : IsFinite y) (hw : IsFinite w)
    (hexact : scaled w * 2 ^ 149 = scaled x * scaled y) : IsFinite r ∧ scaled r = scaled w := by
  obtain ⟨_, _, hrounded⟩ := h
  have hr := hrounded ⟨hx, hy⟩
  rw [← hexact] at hr
  exact exact_of_correctlyRounded hr hw

/-- Settles O21: the exact result is the only nearest number, and it lies below the bound of overflow. -/
theorem representableResultsAreExact : Obligations.RepresentableResultsAreExact := fun x y _ hx hy hw =>
  ⟨fun hsum => exact_of_isSum (additionIsIeeeBinary32 x y) hx hy hw hsum,
    fun hdiff => exact_of_isSum (subtractionIsIeeeBinary32 x y) hx hy hw (hdiff.trans (sub_eq_add_neg _ _)),
    fun hprod => exact_of_isProduct (multiplicationIsIeeeBinary32 x y) hx hy hw hprod⟩

end Sys2Proof.Machine
end

section
/-! SUPPORT. The family of 41_decoder_alu.md, part 4: the conversion of a signed integer (R107). -/

namespace Sys2Proof.Machine

open Sys2Proof Sys2Proof.Spec

variable {m : Nat} {z : Int}

/-- An integer of at most 24 bits is a binary32 magnitude: shifted up to 24 bits it is a significand. The bound itself,
where a significand carries, is one as well. -/
theorem exists_magValue_eq (hm : m ≤ 2 ^ 24) : ∃ b < infBits, magValue b = m * 2 ^ 149 := by
  rcases Nat.eq_zero_or_pos m with rfl | hpos
  · exact ⟨0, by decide, by simp [magValue]⟩
  obtain ⟨j, hj⟩ : ∃ j, j = 23 - m.log2 := ⟨_, rfl⟩
  have hlow : 2 ^ 23 ≤ m * 2 ^ j := calc
    2 ^ 23 ≤ 2 ^ (m.log2 + j) := Nat.pow_le_pow_right (by decide) (by omega)
    _ = 2 ^ m.log2 * 2 ^ j := Nat.pow_add ..
    _ ≤ m * 2 ^ j := Nat.mul_le_mul_right _ (Nat.log2_self_le hpos.ne')
  have hhigh : m * 2 ^ j ≤ 2 ^ 24 := by
    rcases Nat.eq_zero_or_pos j with rfl | hjpos
    · rwa [Nat.pow_zero, Nat.mul_one]
    · calc m * 2 ^ j
        _ ≤ 2 ^ (m.log2 + 1) * 2 ^ j := Nat.mul_le_mul_right _ Nat.lt_log2_self.le
        _ = 2 ^ 24 := by rw [← Nat.pow_add]; congr 1; omega
  refine ⟨(149 - j) * 2 ^ 23 + m * 2 ^ j, by rw [infBits]; omega, ?_⟩
  rw [magValue_grid (.inr hlow) hhigh, Nat.mul_assoc, ← Nat.pow_add, Nat.add_sub_cancel' (by omega)]

theorem exists_scaled_eq (hz : |z| ≤ 2 ^ 24) : ∃ w, IsFinite w ∧ scaled w = z * 2 ^ 149 := by
  rw [Int.abs_eq_natAbs] at hz
  obtain ⟨b, hb, hvalue⟩ := exists_magValue_eq (m := z.natAbs) (by omega)
  have hlt : b < 2 ^ 31 := hb.trans (by decide)
  refine ⟨withSign (decide (z < 0)) b, isFinite_iff.mpr (by rwa [magBits_withSign _ hlt]), ?_⟩
  rw [scaled_withSign _ hlt, hvalue, ← signedMag_mul_quantum, ← eq_signedMag_natAbs]

/-- A magnitude that fills the 24 bits of a significand rounds to a normal number. -/
theorem le_roundMag (hm : 2 ^ 24 * 2 ^ 149 ≤ m) : 2 ^ 23 ≤ roundMag m := by
  obtain ⟨k, q, r, hsplit, hr, hk, hq, hround⟩ := roundMag_grid m
  have hkpos : 1 ≤ k := by
    rw [Nat.one_le_iff_ne_zero]
    rintro rfl
    rw [Nat.zero_add] at hsplit hr
    have hq' : (q + 1) * 2 ^ 149 ≤ 2 ^ 24 * 2 ^ 149 := Nat.mul_le_mul_right _ hq
    rw [Nat.succ_mul] at hq'
    omega
  rw [hround, le_min_iff, infBits]
  exact ⟨by omega, by decide⟩

theorem toInt_natAbs_le (x : Word) : x.toInt.natAbs ≤ 2 ^ 31 := by
  have hx := word_toNat_lt x
  rw [BitVec.toInt_eq_toNat_cond]
  simp only [Config.wordBits]
  split <;> omega

theorem toInt_eq_signedMag (x : Word) :
    x.toInt * 2 ^ 149 * 2 ^ 149 = signedMag (decide (x.toInt < 0)) (x.toInt.natAbs * 2 ^ 149 * 2 ^ 149) := by
  rw [← signedMag_mul_quantum, ← signedMag_mul_quantum, ← eq_signedMag_natAbs]

theorem i32ToF32_nearest (x : Word) : Nearest (x.toInt * 2 ^ 149 * 2 ^ 149) (i32ToF32 x) := by
  rw [toInt_eq_signedMag]
  refine nearest_withSign _ (Nat.mul_lt_mul_of_pos_right ?_ (Nat.two_pow_pos 149))
  exact (Nat.mul_le_mul_right _ (toInt_natAbs_le x)).trans_lt (by decide)

theorem i32ToF32_zero : i32ToF32 0 = 0 := by decide

theorem i32ToF32_exact (x : Word) (hx : |x.toInt| ≤ 2 ^ 24) : scaled (i32ToF32 x) = x.toInt * 2 ^ 149 := by
  obtain ⟨w, hw, hscaled⟩ := exists_scaled_eq hx
  have hnear := i32ToF32_nearest x
  rw [← hscaled] at hnear ⊢
  exact scaled_eq_of_nearest hnear hw

theorem i32ToF32_normal (x : Word) (hx : x ≠ 0) : (i32ToF32 x).extractLsb' 23 8 ≠ 0 := by
  have hpos : 1 ≤ x.toInt.natAbs := Int.natAbs_pos.mpr fun h => hx (BitVec.eq_of_toInt_eq h)
  have hbits : 2 ^ 23 ≤ magBits (i32ToF32 x) := by
    rw [i32ToF32, magBits_withSign _ (roundMag_lt _)]
    refine le_roundMag (Nat.mul_le_mul_right _ ?_)
    exact le_trans (by decide) (Nat.mul_le_mul_right (2 ^ 149) hpos)
  intro hexponent
  have hzero := exponent_toNat (i32ToF32 x)
  rw [hexponent] at hzero
  have hdiv : 1 ≤ magBits (i32ToF32 x) / 2 ^ 23 := (Nat.le_div_iff_mul_le (by decide)).mpr hbits
  exact absurd (hzero ▸ hdiv) (by decide)

/-- Settles O20. -/
theorem conversionIsNearestSigned : Obligations.ConversionIsNearestSigned := by
  refine fun x => ⟨i32ToF32_nearest x, sign_withSign _ (roundMag_lt _), i32ToF32_exact x, ?zero, i32ToF32_normal x⟩
  case zero =>
    rintro rfl
    exact i32ToF32_zero

end Sys2Proof.Machine
end

section
/-! SUPPORT. The family of 41_decoder_alu.md, part 5: the first pass of a run on a store without a completion flag (R116,
R136, R171). -/

namespace Sys2Proof.Machine

open Sys2Proof Sys2Proof.Spec

variable {s s₀ : State} {k n : Nat}

/-- `s` is the state of the run that `s₀` starts after `k` core steps of its first pass. -/
structure FirstPass (s₀ : State) (k : Nat) (s : State) : Prop where
  inbox_nil : s.inbox = []
  ucode_eq : s.ucode = s₀.ucode
  running : s.fsm = .running
  pc_eq : s.pc = k
  idx_eq : s.idx = 0
  irqCount_eq : s.irqCount = s₀.irqCount
  vertices_eq : s.vertices.toNat = s₀.emissionsBefore k

theorem startRun_firstPass (hinbox : s₀.inbox = []) : FirstPass s₀ 0 s₀.startRun :=
  ⟨hinbox, rfl, rfl, rfl, rfl, rfl, rfl⟩

theorem emissionsBefore_le (c : CoreState) (k : Nat) : c.emissionsBefore k ≤ k := by
  induction k with
  | zero => exact Nat.le_refl 0
  | succ k ih =>
    rw [CoreState.emissionsBefore]
    split <;> omega

/-- The vertices of a pass are far from saturation. -/
theorem emitPhase_vertices (emit : Bool) (d : RegIdx) (h : s.vertices.toNat < 512) :
    (s.emitPhase emit d).vertices.toNat = s.vertices.toNat + if emit then 1 else 0 := by
  cases emit with
  | false => rfl
  | true =>
    rw [emitPhase_true, emission_vertices, sat32Succ_toNat, if_pos rfl]
    omega

theorem firstPass_step (hends : ∀ k < 512, s₀.slotEnds k = false) (h : FirstPass s₀ k s) (hk : k < 512) :
    ∃ t, step s = .next t ∧ FirstPass s₀ (k + 1) t := by
  obtain ⟨hinbox, hucode, hrun, rfl, hidx, hirq, hvertices⟩ := h
  obtain ⟨x, d, hstep⟩ := step_of_running hinbox hrun hk
  have hslotEnds : s.slotEnds s.pc = false := by
    rw [CoreState.slotEnds, hucode]
    exact hends s.pc hk
  have hslotEmits : s.slotEmits s.pc = s₀.slotEmits s.pc := by
    rw [CoreState.slotEmits, hucode]
    rfl
  rw [hslotEnds, hslotEmits] at hstep
  have hless : s.vertices.toNat < 512 := hvertices.trans_lt ((emissionsBefore_le _ _).trans_lt hk)
  obtain ⟨_, fucode, fpc, ffsm, fidx, _, _, _, _, _, _, firq, finbox, _⟩ :=
    emitPhase_frame { s with x := x } (s₀.slotEmits s.pc) d
  refine ⟨_, hstep, finbox.trans hinbox, fucode.trans hucode, ffsm.trans hrun, congrArg (· + 1) fpc, fidx.trans hidx,
    firq.trans hirq, ?_⟩
  calc _ = s.vertices.toNat + if s₀.slotEmits s.pc then 1 else 0 :=
        emitPhase_vertices (s := { s with x := x }) (s₀.slotEmits s.pc) d hless
    _ = s₀.emissionsBefore (s.pc + 1) := by rw [hvertices, CoreState.emissionsBefore]

theorem firstPass_runSteps (hends : ∀ k < 512, s₀.slotEnds k = false) (h : FirstPass s₀ k s) (hn : k + n ≤ 512) :
    ∃ t, runSteps n s = .next t ∧ FirstPass s₀ (k + n) t := by
  induction n generalizing k s with
  | zero => exact ⟨s, rfl, h⟩
  | succ n ih =>
    obtain ⟨u, hstep, hu⟩ := firstPass_step hends h (by omega)
    rw [runSteps_succ hstep, show k + (n + 1) = k + 1 + n by omega]
    exact ih hu (by omega)

/-- Settles O56: without a completion flag the first pass never ends. -/
theorem runWithoutCompletionFlagStalls : Obligations.RunWithoutCompletionFlagStalls := by
  intro s hinbox hends
  obtain ⟨t, hrun, ht⟩ := firstPass_runSteps hends (startRun_firstPass hinbox) (n := 512) (by decide)
  rw [Nat.zero_add] at ht
  exact ⟨t, hrun, ⟨ht.running, ht.pc_eq⟩, ht.idx_eq, ht.irqCount_eq, ht.vertices_eq⟩

end Sys2Proof.Machine
end

section
/-! SUPPORT. The family of 42_mesh_controller.md: the transitions of the controller (R130, R135, R190), a stall that
lasts (R136, R139), and the order of the points, which no step sees (R25, R137). -/

namespace Sys2Proof.Machine

open Sys2Proof Sys2Proof.Spec

variable {s s₀ t : State} {n : Nat}

/-! ### The transitions of the controller (R130) -/

theorem slotEnds_of_fetch {c : CoreState} {i : Instr} (h : c.fetch = some i) : c.slotEnds c.pc = i.eop := by
  obtain ⟨_, hpc, rfl⟩ := fetch_eq_some h
  exact slotEnds_of_lt hpc

/-- The flags move the controller at the end of the last pass alone (R135). -/
theorem retire_fsm (s : State) (eop emit : Bool) (d : RegIdx) :
    (s.retire eop emit d).fsm = if eop = true ∧ s.idx + 1 = s.total then .done else s.fsm := by
  cases eop with
  | false =>
    obtain ⟨_, hfsm, _⟩ := retire_flowsOn s emit d
    exact hfsm
  | true =>
    obtain ⟨_, hlast, hnext⟩ := retire_endsPass s emit d
    by_cases h : s.idx + 1 = s.total
    · rw [if_pos ⟨rfl, h⟩, (hlast h).1]
    · rw [if_neg fun hend => h hend.2, (hnext h).1]

theorem executes_fsm {i : Instr} {s₁ : State} (hop : Operated i s s₁) :
    (s₁.retire i.eop i.emit i.dest).fsm = if i.eop = true ∧ s.idx + 1 = s.total then .done else s.fsm := by
  obtain ⟨x, rfl⟩ := operated_eq_with_x hop
  exact retire_fsm { s with x := x } i.eop i.emit i.dest

/-- Settles O29. -/
theorem controllerTransitions : Obligations.ControllerTransitions := by
  intro s t h hne
  cases step_effect h with
  | executes hturn hfetch hop =>
    have hfsm := executes_fsm (s := s.takeTurn) hop
    split at hfsm
    · next hend =>
      obtain ⟨heop, hlast⟩ := hend
      obtain ⟨hrun, _⟩ := fetch_eq_some hfetch
      exact .inr (.inl ⟨hrun, hfsm, hturn, (slotEnds_of_fetch hfetch).trans heop, hlast⟩)
    · exact absurd hfsm hne
  | starts hstart => exact .inl ⟨hne.symm, rfl, hstart⟩
  | resets hreset => exact .inr (.inr ⟨resetInput_fsm _, hreset⟩)
  | passes | reads | setsDmaBase | setsMeshW | setsMeshH | writesReg | writesSlot => exact absurd rfl hne

/-! ### A stall lasts (R136, R139)

What the host may still touch during a stall lies outside `State.runPart`, as during any part of a run. So the stalled
state is followed by its run part, and its pulses by the trace of the ports, where reads add no pulse. -/

theorem stalled_busy {c : CoreState} (h : c.Stalled) : c.busy = true := beq_iff_eq.mpr h.1

theorem stalled_fetch {c : CoreState} (h : c.Stalled) : c.fetch = none := fetch_eq_none (.inr h.2.ge)

theorem not_startNext_of_ignored (hbusy : s.busy = true) (hignore : s.policy.startWhileBusy = .ignore) :
    ¬ StartNext s := by
  rintro ⟨_, _, _, _, _, _, hidle | hrestart⟩
  · cases hbusy.symm.trans hidle
  · cases hignore.symm.trans hrestart

theorem not_resetNext (h : Stimulus.reset ∉ s.inbox) : ¬ ResetNext s := by
  rintro ⟨rest, hinbox⟩
  exact h (hinbox ▸ List.mem_cons_self)

theorem pulses_putReadData (s : State) (off : Nat) (v : Word) : pulses (s.putReadData off v) = pulses s :=
  List.count_cons_of_ne (show PortEvent.readData off v ≠ .irqPulse from nofun)

/-- `s` is a state of the stall that `s₀` is in, with no reset to come. -/
structure InStallOf (s₀ s : State) : Prop where
  stalled : s.Stalled
  ignores : s.policy.startWhileBusy = .ignore
  no_reset : Stimulus.reset ∉ s.inbox
  runPart_eq : s.runPart = s₀.runPart
  pulses_eq : pulses s = pulses s₀

theorem InStallOf.takeTurn (h : InStallOf s₀ s) : InStallOf s₀ s.takeTurn :=
  ⟨h.stalled, h.ignores, fun hmem => h.no_reset (List.mem_of_mem_tail hmem), h.runPart_eq, h.pulses_eq⟩

/-- The core has no step to take, the host's start is ignored and its writes to the two stores are refused. -/
theorem InStallOf.step (h : InStallOf s₀ s) (hstep : step s = .next t) : InStallOf s₀ t := by
  obtain ⟨hstalled, hignores, hno_reset, hpart, hpulses⟩ := h.takeTurn
  have hbusy : s.busy = true := stalled_busy h.stalled
  cases step_effect hstep with
  | executes _ hfetch => cases (stalled_fetch h.stalled).symm.trans hfetch
  | resets hreset => exact absurd hreset (not_resetNext h.no_reset)
  | starts hstart => exact absurd hstart (not_startNext_of_ignored hbusy h.ignores)
  | writesReg _ _ _ _ hidle | writesSlot _ _ _ _ hidle => cases hbusy.symm.trans hidle
  | reads off v =>
    exact ⟨hstalled, hignores, hno_reset, hpart, (pulses_putReadData s.takeTurn off v).trans hpulses⟩
  | passes | setsDmaBase | setsMeshW | setsMeshH => exact ⟨hstalled, hignores, hno_reset, hpart, hpulses⟩

/-- What every step keeps, any number of steps keep. -/
theorem runSteps_keeps {P : State → Prop} (hkeeps : ∀ {s t}, P s → step s = .next t → P t) (h : P s)
    (hrun : runSteps n s = .next t) : P t := by
  induction n generalizing s with
  | zero =>
    injection hrun with hrun
    exact hrun ▸ h
  | succ n ih =>
    rw [runSteps] at hrun
    split at hrun
    · next hstep => exact ih (hkeeps h hstep) hrun
    · cases hrun
    · cases hrun

/-- Settles O55: every field of the statement but the pulses lies in the run part. -/
theorem stallIsForever : Obligations.StallIsForever := by
  intro n s t hstalled hignore hno_reset hrun
  have hstart : InStallOf s s := ⟨hstalled, hignore, hno_reset, rfl, rfl⟩
  obtain ⟨hstalled', _, _, hpart, hpulses⟩ := runSteps_keeps InStallOf.step hstart hrun
  exact ⟨hstalled', stalled_busy hstalled', congrArg (·.idx) hpart, congrArg (·.irqCount) hpart, hpulses,
    congrArg (·.vertices) hpart, congrArg (·.collisions) hpart, congrArg (·.stray) hpart, congrArg (·.x) hpart,
    congrArg (·.ucode) hpart, congrArg (·.mem) hpart⟩

/-! ### MESH_ORDER is not seen (R25, R137)

Another MESH_ORDER commutes with each operation over the state, and so with what each agent does with its turn. -/

section MeshOrder

variable (o : MeshOrder)

theorem withMeshOrder_emitAddr (s : State) : (withMeshOrder o s).emitAddr = s.emitAddr := rfl

theorem withMeshOrder_emitWord (s : State) (d : RegIdx) (k : Nat) :
    (withMeshOrder o s).emitWord d k = s.emitWord d k := rfl

theorem memWrite_withMeshOrder (s : State) (a : Addr) (v : Word) :
    (withMeshOrder o s).memWrite a v = withMeshOrder o (s.memWrite a v) := rfl

theorem writeVector_withMeshOrder (s : State) (d : RegIdx) :
    (withMeshOrder o s).writeVector d = withMeshOrder o (s.writeVector d) := by
  rw [writeVector_eq, writeVector_eq, withMeshOrder_emitAddr, memWrite_withMeshOrder, memWrite_withMeshOrder,
    memWrite_withMeshOrder, memWrite_withMeshOrder, withMeshOrder_emitWord, withMeshOrder_emitWord,
    withMeshOrder_emitWord, withMeshOrder_emitWord]

theorem emissionCounts_withMeshOrder (s : State) :
    (withMeshOrder o s).testCollision.testStray.countVertex =
      withMeshOrder o s.testCollision.testStray.countVertex := rfl

theorem markEmitted_withMeshOrder (s : State) :
    (withMeshOrder o s).markEmitted = withMeshOrder o s.markEmitted := rfl

theorem emission_withMeshOrder (s : State) (d : RegIdx) :
    (withMeshOrder o s).emission d = withMeshOrder o (s.emission d) := by
  rw [State.emission, State.emission, emissionCounts_withMeshOrder, writeVector_withMeshOrder,
    markEmitted_withMeshOrder]

theorem endOfPass_withMeshOrder (s : State) : (withMeshOrder o s).endOfPass = withMeshOrder o s.endOfPass := by
  by_cases h : s.idx + 1 = s.total
  · rw [endOfPass_last h, endOfPass_last (s := withMeshOrder o s) h]
    rfl
  · rw [endOfPass_next h, endOfPass_next (s := withMeshOrder o s) h]
    rfl

theorem emitPhase_withMeshOrder (s : State) (emit : Bool) (d : RegIdx) :
    (withMeshOrder o s).emitPhase emit d = withMeshOrder o (s.emitPhase emit d) := by
  cases emit
  · rfl
  · exact emission_withMeshOrder o s d

theorem endPhase_withMeshOrder (s : State) (eop : Bool) :
    (withMeshOrder o s).endPhase eop = withMeshOrder o (s.endPhase eop) := by
  cases eop
  · rfl
  · exact endOfPass_withMeshOrder o s

theorem retire_withMeshOrder (s : State) (eop emit : Bool) (d : RegIdx) :
    (withMeshOrder o s).retire eop emit d = withMeshOrder o (s.retire eop emit d) := by
  rw [State.retire, emitPhase_withMeshOrder, endPhase_withMeshOrder, State.retire]

theorem exec_withMeshOrder (i : Instr) (s : State) :
    exec i (withMeshOrder o s) = mapNext (withMeshOrder o) (exec i s) := by
  cases i with
  | fadd | fsub | fmul | i2f | copy => exact congrArg Host.Outcome.next (retire_withMeshOrder o (s.setReg _ _) _ _ _)
  | _ => exact congrArg Host.Outcome.next (retire_withMeshOrder o s _ _ _)

theorem coreTurn_of_fetch_some {i : Instr} (h : s.fetch = some i) : coreTurn s = exec i s := by
  rw [coreTurn.eq_def, h]

theorem coreTurn_withMeshOrder (s : State) :
    coreTurn (withMeshOrder o s) = mapNext (withMeshOrder o) (coreTurn s) := by
  cases hfetch : s.fetch with
  | none =>
    rw [coreTurn_of_fetch_none hfetch, coreTurn_of_fetch_none (s := withMeshOrder o s) hfetch]
    rfl
  | some i =>
    rw [coreTurn_of_fetch_some hfetch, coreTurn_of_fetch_some (s := withMeshOrder o s) hfetch]
    exact exec_withMeshOrder o i s

theorem commandCtl_withMeshOrder (s : State) (v : Word) :
    (withMeshOrder o s).commandCtl v = withMeshOrder o (s.commandCtl v) := by
  cases hv : v.getLsbD 0 with
  | false => rw [commandCtl_of_clear _ hv, commandCtl_of_clear _ hv]
  | true =>
    have started (haccepted : s.busy = false ∨ s.policy.startWhileBusy = .restart) :
        (withMeshOrder o s).commandCtl v = withMeshOrder o (s.commandCtl v) := by
      rw [commandCtl_of_start hv haccepted, commandCtl_of_start (s := withMeshOrder o s) hv haccepted]
      rfl
    cases hbusy : s.busy with
    | false => exact started (.inl hbusy)
    | true =>
      cases hpolicy : s.policy.startWhileBusy with
      | ignore => rw [commandCtl_ignored hbusy hpolicy, commandCtl_ignored (s := withMeshOrder o s) hbusy hpolicy]
      | restart => exact started (.inr hpolicy)

theorem hostWrite_withMeshOrder (off : Nat) (v : Word) (s : State) :
    hostWrite off v (withMeshOrder o s) = mapNext (withMeshOrder o) (hostWrite off v s) := by
  rw [hostWrite.eq_def, hostWrite.eq_def]
  cases hostTarget off with
  | ctl => exact congrArg Host.Outcome.next (commandCtl_withMeshOrder o s v)
  | regfile n =>
    exact (apply_ite (mapNext (withMeshOrder o)) (s.busy = true) (.refused _) (.next (s.setReg n v))).symm
  | microcode k =>
    exact (apply_ite (mapNext (withMeshOrder o)) (s.busy = true) (.refused _) (.next (s.setUcode k v))).symm
  | _ => rfl

theorem hostRead_withMeshOrder (s : State) (off : Nat) :
    (withMeshOrder o s).hostRead off = withMeshOrder o (s.hostRead off) := by
  cases hvalue : s.readValue off with
  | none =>
    rw [hostRead_of_none hvalue, hostRead_of_none (s := withMeshOrder o s) hvalue]
    rfl
  | some w =>
    rw [hostRead_of_some hvalue, hostRead_of_some (s := withMeshOrder o s) hvalue]
    rfl

/-- The three checks read the operation alone; what passes them is a word access of the window. -/
theorem hostOp_withMeshOrder (op : HostOp) (s : State) :
    hostOp op (withMeshOrder o s) = mapNext (withMeshOrder o) (hostOp op s) := by
  by_cases hwf : op.WellFormed
  · obtain ⟨off, h4, hwindow, rfl | ⟨v, rfl⟩⟩ := hwf.word_access
    · rw [hostOp_read _ h4 hwindow, hostOp_read s h4 hwindow, hostRead_withMeshOrder]
      rfl
    · rw [hostOp_write v _ h4 hwindow, hostOp_write v s h4 hwindow, hostWrite_withMeshOrder]
  · by_cases hwide : op.WordWide
    · by_cases haligned : op.Aligned
      · have hwindow : ¬ op.InWindow := fun hwindow => hwf ⟨hwide, haligned, hwindow⟩
        rw [hostOp_of_not_inWindow _ hwide haligned hwindow, hostOp_of_not_inWindow s hwide haligned hwindow]
        rfl
      · rw [hostOp_of_not_aligned _ hwide haligned, hostOp_of_not_aligned s hwide haligned]
        rfl
    · rw [hostOp_of_not_wordWide _ hwide, hostOp_of_not_wordWide s hwide]
      rfl

theorem resetInput_withMeshOrder (s : State) :
    (withMeshOrder o s).resetInput = withMeshOrder o s.resetInput := rfl

end MeshOrder

/-- Settles O35, by the agent that has the turn. -/
theorem meshOrderIsUnobservable : Obligations.MeshOrderIsUnobservable := by
  intro o s
  cases hinbox : s.inbox with
  | nil =>
    rw [step_of_inbox_nil hinbox, step_of_inbox_nil (s := withMeshOrder o s) hinbox]
    exact coreTurn_withMeshOrder o s
  | cons a rest =>
    cases a with
    | core =>
      rw [step_of_core hinbox, step_of_core (s := withMeshOrder o s) hinbox]
      exact coreTurn_withMeshOrder o s.takeTurn
    | reset =>
      rw [step_of_reset hinbox, step_of_reset (s := withMeshOrder o s) hinbox]
      exact congrArg Host.Outcome.next (resetInput_withMeshOrder o s.takeTurn)
    | host op =>
      rw [step_of_host hinbox, step_of_host (s := withMeshOrder o s) hinbox]
      exact hostOp_withMeshOrder o op s.takeTurn

end Sys2Proof.Machine
end

section
/-! SUPPORT. The family of 43_dma_output.md: an emission's address (R150) and registers (R153) as numbers. The first is one of
the laws of the emission (`emitAddr_toNat`). -/

namespace Sys2Proof.Machine

open Sys2Proof

/-- The register `k` places above `d` as a number (R153): the wrap is the one of a 7-bit index, so reducing `k` before
the sum changes nothing. -/
theorem emitReg_toNat (d : RegIdx) (k : Nat) : (emitReg d k).toNat = (d.toNat + k) % 128 :=
  calc (d + BitVec.ofNat 7 k).toNat
    _ = (d.toNat + (BitVec.ofNat 7 k).toNat) % 128 := BitVec.toNat_add d _
    _ = (d.toNat + k % 128) % 128 := by rw [BitVec.toNat_ofNat]
    _ = (d.toNat + k) % 128 := Nat.add_mod_mod _ _ _

/-- Settles O23: a state's emission address is its core's. -/
theorem emissionAddressIsBasePlusSixteenTimesIndex : Obligations.EmissionAddressIsBasePlusSixteenTimesIndex :=
  fun s => emitAddr_toNat s.toCoreState

/-- Settles O24. -/
theorem emissionRegistersWrapModulo128 : Obligations.EmissionRegistersWrapModulo128 := emitReg_toNat

end Sys2Proof.Machine
end

section
/-! SUPPORT. The family of 44_hazard_detector.md: the targets of the points of a run (R150, R160), the counters in one step
(R164) and at the end of a run (R165). -/

namespace Sys2Proof.Machine

open Sys2Proof Sys2Proof.Spec

variable {s t s₀ : State} {last k n : Nat}

/-! ### The targets of two points (R150, R160) -/

/-- The address of a point is the emission address of a core that stands at the point. -/
theorem pointAddr_toNat (c : CoreState) (j : Nat) : (c.pointAddr j).toNat = (c.runBase.toNat + 16 * j) % 2 ^ 32 :=
  emitAddr_toNat { c with idx := j }

/-- The addresses of a run repeat with the period 2^28, which is 2^32 in steps of one vector. -/
theorem pointAddr_eq_iff (c : CoreState) (i j : Nat) :
    c.pointAddr i = c.pointAddr j ↔ i % 2 ^ 28 = j % 2 ^ 28 := by
  rw [← BitVec.toNat_inj, pointAddr_toNat, pointAddr_toNat]
  omega

/-- Two addresses of a run are a multiple of the size of a vector apart, so a common byte has the same place in both. -/
theorem pointAddr_eq_of_common_byte {c : CoreState} {i j a : Nat} (hi : InVector (c.pointAddr i) a)
    (hj : InVector (c.pointAddr j) a) : c.pointAddr i = c.pointAddr j := by
  obtain ⟨x, hx, rfl⟩ := hi
  obtain ⟨y, hy, hbyte⟩ := hj
  rw [byteAddr_toNat, byteAddr_toNat, pointAddr_toNat, pointAddr_toNat] at hbyte
  obtain rfl : x = y := by omega
  rw [pointAddr_eq_iff]
  omega

/-- Settles O26. -/
theorem emissionTargetsCoincideOrAreDisjoint : Obligations.EmissionTargetsCoincideOrAreDisjoint := fun s i j =>
  ⟨pointAddr_eq_iff s i j, fun hne _ ⟨hi, hj⟩ => hne (pointAddr_eq_of_common_byte hi hj)⟩

/-! ### The counters in one step (R164) -/

/-- The three counters of the core (R21 to R23). -/
abbrev counters : List (CoreState → Counter) := [CoreState.vertices, CoreState.collisions, CoreState.stray]

theorem forall_counters {P : (CoreState → Counter) → Prop} :
    (∀ c ∈ counters, P c) ↔ P CoreState.vertices ∧ P CoreState.collisions ∧ P CoreState.stray := by
  simp only [counters, List.forall_mem_cons, List.not_mem_nil, false_imp_iff, implies_true, and_true]

/-- The register file, the store and the configuration registers are apart from the counters. -/
theorem counters_with_unrelated (c₀ : CoreState) (x : Vector Word Config.nRegs) (ucode : Vector Word Config.ucodeWords)
    (base : Addr) (w l : MeshField) :
    ∀ c ∈ counters, c { c₀ with x := x, ucode := ucode, dmaBase := base, meshW := w, meshH := l } = c c₀ :=
  forall_counters.mpr ⟨rfl, rfl, rfl⟩

theorem emission_counters (s : State) (d : RegIdx) : ∀ c ∈ counters,
    c (s.emission d).toCoreState = c s.toCoreState ∨ c (s.emission d).toCoreState = sat32Succ (c s.toCoreState) := by
  refine forall_counters.mpr ⟨.inr (emission_vertices s d), ?collisions, ?stray⟩
  case collisions =>
    rw [emission_collisions]
    exact (ite_eq_or_eq _ _ _).symm
  case stray =>
    rw [emission_stray]
    exact (ite_eq_or_eq _ _ _).symm

/-- An instruction counts by its emission alone. -/
theorem retire_counters (s : State) (eop emit : Bool) (d : RegIdx) : ∀ c ∈ counters,
    c (s.retire eop emit d).toCoreState = c s.toCoreState ∨
    c (s.retire eop emit d).toCoreState = sat32Succ (c s.toCoreState) := by
  have hphase3 : ∀ c ∈ counters, c (s.retire eop emit d).toCoreState = c (s.emitPhase emit d).toCoreState := by
    obtain ⟨hvertices, hcollisions, hstray, _⟩ := retire_emission_fields s eop emit d
    exact forall_counters.mpr ⟨hvertices, hcollisions, hstray⟩
  intro c hc
  rw [hphase3 c hc]
  cases emit with
  | false => exact .inl rfl
  | true => exact emission_counters s d c hc

theorem executes_counters {i : Instr} {s₁ : State} (hop : Operated i s s₁) : ∀ c ∈ counters,
    c (s₁.retire i.eop i.emit i.dest).toCoreState = c s.toCoreState ∨
    c (s₁.retire i.eop i.emit i.dest).toCoreState = sat32Succ (c s.toCoreState) := by
  obtain ⟨x, rfl⟩ := operated_eq_with_x hop
  intro c hc
  rw [← counters_with_unrelated s.toCoreState x _ _ _ _ c hc]
  exact retire_counters { s with x := x } _ _ _ c hc

theorem startRun_counters (s : State) : ∀ c ∈ counters, c s.startRun.toCoreState = 0 :=
  forall_counters.mpr ⟨rfl, rfl, rfl⟩

theorem resetInput_counters (s : State) : ∀ c ∈ counters, c s.resetInput.toCoreState = 0 :=
  forall_counters.mpr ⟨resetInput_vertices s, resetInput_collisions s, resetInput_stray s⟩

/-- Settles O27. -/
theorem countersSaturateAndClearOnlyAtStartOrReset : Obligations.CountersSaturateAndClearOnlyAtStartOrReset := by
  refine ⟨fun c => ?increment, fun s t h c hc => ?step⟩
  case increment =>
    have hmax := counter_toNat_lt c
    rw [sat32Succ_toNat]
    split <;> omega
  case step =>
    cases step_effect h with
    | executes _ _ hop => exact (executes_counters (s := s.takeTurn) hop c hc).imp_right .inl
    | starts hstart => exact .inr (.inr ⟨startRun_counters _ c hc, .inl hstart⟩)
    | resets hreset => exact .inr (.inr ⟨resetInput_counters _ c hc, .inr hreset⟩)
    | passes | reads => exact .inl rfl
    | setsDmaBase | setsMeshW | setsMeshH | writesReg | writesSlot =>
      exact .inl (counters_with_unrelated s.toCoreState _ _ _ _ _ c hc)

/-! ### The counters of a run (R165)

The tally of a run gives what each counter would hold without the cap. A pass of `e` emissions adds `e` vertices and
`e - 1` stray writes, since only its first emission finds `emitted` clear. -/

/-- The counter `c` shows the count `m`, capped at its largest value (R164). -/
def Shows (c : Counter) (m : Nat) : Prop := c.toNat = min m 0xFFFFFFFF

theorem shows_zero : Shows 0 0 := rfl

theorem Shows.succ {c : Counter} {m : Nat} (h : Shows c m) : Shows (sat32Succ c) (m + 1) := by
  rw [Shows] at h ⊢
  rw [sat32Succ_toNat]
  omega

/-- The counters of a run whose passes end in slot `last`, after the first `k` slots of the current pass. -/
structure Tallied (s₀ : State) (last k : Nat) (s : State) : Prop where
  emitted_iff : s.emitted = true ↔ 0 < s₀.emissionsBefore k
  vertices_shows : Shows s.vertices (s₀.emissionsBefore (last + 1) * s.idx + s₀.emissionsBefore k)
  stray_shows : Shows s.stray ((s₀.emissionsBefore (last + 1) - 1) * s.idx + (s₀.emissionsBefore k - 1))

theorem startRun_tallied (s₀ : State) (last : Nat) : Tallied s₀ last 0 s₀.startRun :=
  ⟨iff_of_false nofun nofun, shows_zero, shows_zero⟩

theorem emissionsBefore_succ_of_emits {c : CoreState} (h : c.slotEmits k = true) :
    c.emissionsBefore (k + 1) = c.emissionsBefore k + 1 := by
  rw [CoreState.emissionsBefore, if_pos h]

theorem emissionsBefore_succ_of_not_emits {c : CoreState} (h : c.slotEmits k = false) :
    c.emissionsBefore (k + 1) = c.emissionsBefore k := by
  simp only [CoreState.emissionsBefore, h, Bool.false_eq_true, if_false, Nat.add_zero]

/-- The emission is a stray write exactly when it is not the first of its pass. -/
theorem Tallied.emission (h : Tallied s₀ last k s) (hemits : s₀.slotEmits k = true) (d : RegIdx) :
    Tallied s₀ last (k + 1) (s.emission d) := by
  have hsucc := emissionsBefore_succ_of_emits hemits
  refine ⟨?emitted, ?vertices, ?stray⟩
  case emitted =>
    rw [emission_emitted, hsucc]
    exact iff_of_true rfl (Nat.succ_pos _)
  case vertices =>
    rw [emission_vertices, emission_idx, hsucc]
    exact h.vertices_shows.succ
  case stray =>
    have hstray := h.stray_shows
    rw [emission_stray, emission_idx, hsucc, Nat.add_sub_cancel]
    split
    · next hagain =>
      have hpos := h.emitted_iff.mp hagain
      have hsum := Nat.sub_add_cancel hpos
      rw [← hsum, ← Nat.add_assoc]
      exact hstray.succ
    · next hfirst =>
      have hzero := Nat.eq_zero_of_not_pos (mt h.emitted_iff.mpr hfirst)
      rwa [hzero] at hstray ⊢

theorem Tallied.emitPhase (h : Tallied s₀ last k s) (d : RegIdx) :
    Tallied s₀ last (k + 1) (s.emitPhase (s₀.slotEmits k) d) := by
  cases hemits : s₀.slotEmits k with
  | false =>
    have hsame := emissionsBefore_succ_of_not_emits hemits
    exact ⟨hsame ▸ h.emitted_iff, hsame ▸ h.vertices_shows, hsame ▸ h.stray_shows⟩
  | true => exact h.emission hemits d

/-- The emissions of a pass that ends count with the earlier points from then on. -/
theorem Tallied.advanceIdx (h : Tallied s₀ last (last + 1) s) :
    Shows s.advanceIdx.vertices (s₀.emissionsBefore (last + 1) * s.advanceIdx.idx) ∧
    Shows s.advanceIdx.stray ((s₀.emissionsBefore (last + 1) - 1) * s.advanceIdx.idx) :=
  ⟨h.vertices_shows, h.stray_shows⟩

theorem Tallied.nextPass (h : Tallied s₀ last (last + 1) s) : Tallied s₀ last 0 s.advanceIdx.nextPass := by
  obtain ⟨hvertices, hstray⟩ := h.advanceIdx
  exact ⟨iff_of_false nofun nofun, hvertices, hstray⟩

/-- Every run on a program that ends comes to the end of its last pass with its tally. -/
theorem RunsOn.ends_tallied (hends : s₀.EndsAt last) (h : RunsOn s₀ last n s) (htally : Tallied s₀ last s.pc s) :
    ∃ u, runSteps n s = .next u.advanceIdx.finishRun ∧ u.advanceIdx.idx = s₀.startRun.total ∧
      u.total = s₀.startRun.total ∧ Tallied s₀ last (last + 1) u := by
  induction n generalizing s with
  | zero => exact absurd h.pos (Nat.lt_irrefl 0)
  | succ n ih =>
    obtain ⟨x, d, u, hu, hpc, hrun, hcases⟩ := h.step_cases hends
    have hx : Tallied s₀ last s.pc { s with x := x } :=
      ⟨htally.emitted_iff, htally.vertices_shows, htally.stray_shows⟩
    have htally : Tallied s₀ last (u.pc + 1) u := by
      rw [hpc, hu]
      exact hx.emitPhase d
    obtain ⟨hbelow, hstep⟩ | ⟨hat, hlast, hstep⟩ | ⟨hat, hlast, hstep⟩ := hcases <;> rw [runSteps_succ hstep]
    · exact ih (hrun.advancePc hbelow) ⟨htally.emitted_iff, htally.vertices_shows, htally.stray_shows⟩
    · exact ih (hrun.nextPass hat hlast) (hat ▸ htally).nextPass
    · rw [hrun.eq_zero hat hlast]
      exact ⟨u, rfl, hlast.trans hrun.total_eq, hrun.total_eq, hat ▸ htally⟩

/-- Settles O58: the run ends with its tally, and the invariant makes the collisions the stray writes. -/
theorem countersAtTheEndOfARun : Obligations.CountersAtTheEndOfARun := by
  intro s t last hinbox hends hrun
  have hinv := runSteps_coreInv (startRun_inv s) hrun
  obtain ⟨u, hend, hidx, htotal, htally⟩ := (startRun_runsOn hinbox).ends_tallied hends (startRun_tallied s last)
  obtain rfl : t = u.advanceIdx.finishRun := Host.Outcome.next.inj (hrun.symm.trans hend)
  obtain ⟨hvertices, hstray⟩ := htally.advanceIdx
  rw [hidx] at hvertices hstray
  exact ⟨hvertices, hstray, fun hnowrap => hinv.collisions_eq (htotal.trans_le hnowrap)⟩

end Sys2Proof.Machine
end

section
/-! SUPPORT. The family of 60_exceptions.md: no instruction traps (R114, R170), and the interrupt output pulses in the
DONE step alone, after its writes (R135, R173, R174). -/

namespace Sys2Proof.Machine

open Sys2Proof Sys2Proof.Spec

variable {s t : State}

/-! ### Every instruction completes (R170) -/

/-- Settles O9: each of the sixteen arms of `exec` answers a next state. -/
theorem everyInstructionCompletes : Obligations.EveryInstructionCompletes := exec_completes

/-! ### The pulse of the DONE step (R135, R173, R174) -/

/-- An emission shows its four writes on the ports, and no pulse. -/
theorem pulses_emitPhase (s : State) (emit : Bool) (d : RegIdx) : pulses (s.emitPhase emit d) = pulses s := by
  cases emit with
  | false => rfl
  | true =>
    rw [pulses, emitPhase_true, emission_port, writeVector_port]
    simp [pulses]

/-- The flags of an instruction that ends the last pass send one pulse, after the writes of the emission. -/
theorem retire_pulse_of_last {eop : Bool} (emit : Bool) (d : RegIdx) (hlast : eop = true ∧ s.idx + 1 = s.total) :
    pulses (s.retire eop emit d) = pulses s + 1 ∧ (s.retire eop emit d).port.head? = some .irqPulse ∧
    (s.retire eop emit d).irqCount = s.irqCount + 1 := by
  have hport := retire_port s eop emit d
  rw [if_pos hlast, List.singleton_append] at hport
  obtain ⟨rfl, hidx⟩ := hlast
  obtain ⟨_, hdone, _⟩ := retire_endsPass s emit d
  obtain ⟨_, hirq, _⟩ := hdone hidx
  refine ⟨?one, by rw [hport, List.head?_cons], hirq⟩
  case one =>
    rw [pulses, hport, List.count_cons_self]
    exact congrArg (· + 1) (pulses_emitPhase s emit d)

/-- The flags of every other instruction send none. -/
theorem retire_silent_of_not_last {eop : Bool} (emit : Bool) (d : RegIdx)
    (hmore : ¬(eop = true ∧ s.idx + 1 = s.total)) :
    pulses (s.retire eop emit d) = pulses s ∧ (s.retire eop emit d).irqCount = s.irqCount := by
  have hport := retire_port s eop emit d
  rw [if_neg hmore, List.nil_append] at hport
  refine ⟨?none, ?count⟩
  case none =>
    rw [pulses, hport]
    exact pulses_emitPhase s emit d
  case count =>
    cases eop with
    | false =>
      obtain ⟨_, _, hirq, _⟩ := retire_flowsOn s emit d
      exact hirq
    | true =>
      obtain ⟨_, _, hnext⟩ := retire_endsPass s emit d
      obtain ⟨_, hirq, _⟩ := hnext fun hidx => hmore ⟨rfl, hidx⟩
      exact hirq

theorem not_finishes_of_fsm_eq (h : t.fsm = s.fsm) : ¬ Finishes s t := by
  rintro ⟨hrun, hdone⟩
  cases (hdone.symm.trans h).trans hrun

theorem not_finishes_resetInput (s : State) : ¬ Finishes s s.takeTurn.resetInput := by
  rintro ⟨_, hdone⟩
  cases (resetInput_fsm s.takeTurn).symm.trans hdone

/-- Reset clears the count of pulses, and not the trace of the ports. -/
theorem pulses_resetInput (s : State) : pulses s.resetInput = pulses s :=
  congrArg (List.count PortEvent.irqPulse) (resetInput_port s)

/-- What a step does to the interrupt output: the DONE step pulses, and every other step is silent and leaves the
count, except that reset clears it. -/
theorem step_pulse_cases (h : step s = .next t) :
    (Finishes s t ∧ pulses t = pulses s + 1 ∧ t.port.head? = some .irqPulse ∧ t.irqCount = s.irqCount + 1) ∨
    (¬ Finishes s t ∧ pulses t = pulses s ∧ (ResetNext s ∨ t.irqCount = s.irqCount)) := by
  cases step_effect h with
  | @executes i _ _ hfetch hop =>
    have hfsm := executes_fsm hop
    obtain ⟨hrun, _⟩ := fetch_eq_some hfetch
    obtain ⟨x, rfl⟩ := operated_eq_with_x hop
    by_cases hlast : i.eop = true ∧ s.takeTurn.idx + 1 = s.takeTurn.total
    · rw [if_pos hlast] at hfsm
      exact .inl ⟨⟨hrun, hfsm⟩, retire_pulse_of_last (s := { s.takeTurn with x := x }) i.emit i.dest hlast⟩
    · rw [if_neg hlast] at hfsm
      obtain ⟨hpulses, hirq⟩ := retire_silent_of_not_last (s := { s.takeTurn with x := x }) i.emit i.dest hlast
      exact .inr ⟨not_finishes_of_fsm_eq hfsm, hpulses, .inr hirq⟩
  | starts => exact .inr ⟨nofun, rfl, .inr rfl⟩
  | resets hreset => exact .inr ⟨not_finishes_resetInput s, pulses_resetInput s.takeTurn, .inl hreset⟩
  | reads off v => exact .inr ⟨not_finishes_of_fsm_eq rfl, pulses_putReadData s.takeTurn off v, .inr rfl⟩
  | passes | setsDmaBase | setsMeshW | setsMeshH | writesReg | writesSlot =>
    exact .inr ⟨not_finishes_of_fsm_eq rfl, rfl, .inr rfl⟩

/-- Settles O30, by what a step does to the interrupt output. -/
theorem pulseExactlyAtDone : Obligations.PulseExactlyAtDone := by
  intro s t h
  obtain ⟨hdone, hpulse⟩ | ⟨hnot, hsilent, hcount⟩ := step_pulse_cases h
  · exact ⟨fun _ => hpulse, fun hnot => absurd hdone hnot, fun hnot => absurd hdone hnot⟩
  · exact ⟨fun hdone => absurd hdone hnot, fun _ => hsilent, fun _ hno_reset => hcount.resolve_left hno_reset⟩

end Sys2Proof.Machine
end

section
/-! SUPPORT. The family of 70_reset_and_hazards.md: the configuration registers during a run (R24, R195), the length of a
run (R132 to R135, R140, R202), and the reset input (R29, R190). -/

namespace Sys2Proof.Machine

open Sys2Proof Sys2Proof.Spec

variable {s s₀ : State} {last m n : Nat}

/-! ### The configuration registers during a run (R24, R195)

An emission and the end of a pass read the run's copies of the configuration, never the registers themselves. -/

section Configuration

variable (b : Addr) (w h : MeshField)

theorem emission_withConfig (s : State) (d : RegIdx) :
    (withConfig b w h s).emission d = withConfig b w h (s.emission d) := rfl

theorem endOfPass_withConfig (s : State) : (withConfig b w h s).endOfPass = withConfig b w h s.endOfPass := by
  by_cases hlast : s.idx + 1 = s.total
  · rw [endOfPass_last hlast, endOfPass_last (s := withConfig b w h s) hlast]
    rfl
  · rw [endOfPass_next hlast, endOfPass_next (s := withConfig b w h s) hlast]
    rfl

theorem emitPhase_withConfig (s : State) (emit : Bool) (d : RegIdx) :
    (withConfig b w h s).emitPhase emit d = withConfig b w h (s.emitPhase emit d) := by
  cases emit with
  | false => rfl
  | true => exact emission_withConfig b w h s d

theorem retire_withConfig (s : State) (eop emit : Bool) (d : RegIdx) :
    (withConfig b w h s).retire eop emit d = withConfig b w h (s.retire eop emit d) := by
  rw [State.retire, emitPhase_withConfig]
  cases eop with
  | false => rfl
  | true => exact endOfPass_withConfig b w h (s.emitPhase emit d)

end Configuration

/-- Settles O36: the operations read and write the register file alone, and the flags commute with the change. -/
theorem configurationDoesNotReachTheRun : Obligations.ConfigurationDoesNotReachTheRun := by
  intro b w h i s
  cases i with
  | fadd | fsub | fmul | i2f | copy => exact congrArg Host.Outcome.next (retire_withConfig b w h (s.setReg _ _) _ _ _)
  | _ => exact congrArg Host.Outcome.next (retire_withConfig b w h s _ _ _)

/-! ### The length of a run (R140, R202) -/

/-- One step of a run uses one of the steps left, and the last one ends the run at the point count. -/
theorem RunsOn.step_continues_or_ends (hends : s₀.EndsAt last) (h : RunsOn s₀ last (n + 1) s) :
    ∃ t, step s = .next t ∧
      (RunsOn s₀ last n t ∨ n = 0 ∧ RunEnded s₀.toCoreState t.toCoreState ∧ t.idx = s₀.startRun.total) := by
  obtain ⟨_, _, u, _, _, hrun, hcases⟩ := h.step_cases hends
  obtain ⟨hbelow, hstep⟩ | ⟨hat, hlast, hstep⟩ | ⟨hat, hlast, hstep⟩ := hcases
  · exact ⟨_, hstep, .inl (hrun.advancePc hbelow)⟩
  · exact ⟨_, hstep, .inl (hrun.nextPass hat hlast)⟩
  · exact ⟨_, hstep, .inr ⟨hrun.eq_zero hat hlast, hrun.finishRun, hlast.trans hrun.total_eq⟩⟩

theorem RunsOn.ends (hends : s₀.EndsAt last) (h : RunsOn s₀ last n s) :
    ∃ t, runSteps n s = .next t ∧ RunEnded s₀.toCoreState t.toCoreState ∧ t.idx = s₀.startRun.total := by
  induction n generalizing s with
  | zero => exact absurd h.pos (Nat.lt_irrefl 0)
  | succ n ih =>
    obtain ⟨t, hstep, hnext⟩ := h.step_continues_or_ends hends
    rw [runSteps_succ hstep]
    obtain hon | ⟨rfl, hended⟩ := hnext
    · exact ih hon
    · exact ⟨t, rfl, hended⟩

/-- As long as steps are left, the run is on. -/
theorem RunsOn.continues (hends : s₀.EndsAt last) (hm : 0 < m) (h : RunsOn s₀ last (m + n) s) :
    ∃ t, runSteps n s = .next t ∧ RunsOn s₀ last m t := by
  induction n generalizing s with
  | zero => exact ⟨s, rfl, h⟩
  | succ n ih =>
    obtain ⟨t, hstep, hnext⟩ := h.step_continues_or_ends hends
    rw [runSteps_succ hstep]
    obtain hon | ⟨hzero, _⟩ := hnext
    · exact ih hon
    · exact absurd hzero (Nat.add_pos_left hm n).ne'

/-- Settles O57: the start leaves total times `last + 1` steps. -/
theorem runEndsAfterTotalTimesLengthSteps : Obligations.RunEndsAfterTotalTimesLengthSteps := by
  intro s last hinbox hends
  have hstart := startRun_runsOn (last := last) hinbox
  refine ⟨hstart.ends hends, fun n hn => ?before⟩
  rw [← Nat.sub_add_cancel hn.le] at hstart
  obtain ⟨t, hrun, ht⟩ := hstart.continues hends (Nat.sub_pos_of_lt hn)
  exact ⟨t, hrun, ht.running, ht.irqCount_eq⟩

/-! ### The reset input (R29, R190) -/

/-- Settles O51: what reset leaves of the schedule is the rest of it, and the other fields are those of `resetInput`. -/
theorem resetClearsTheControlState : Obligations.ResetClearsTheControlState := by
  intro s rest h
  refine ⟨_, step_of_reset h, ?_⟩
  rw [takeTurn_of_inbox_cons h]
  exact ⟨resetInput_fsm _, resetInput_busy _, resetInput_pc _, resetInput_idx _, resetInput_emitted _,
    resetInput_written _, resetInput_vertices _, resetInput_collisions _, resetInput_stray _, resetInput_dmaBase _,
    resetInput_meshW _, resetInput_meshH _, resetInput_runBase _, resetInput_runW _, resetInput_runH _,
    resetInput_irqCount _, resetInput_reg _, resetInput_ucode _, resetInput_mem _, resetInput_port _,
    resetInput_inbox _, resetInput_policy _⟩

end Sys2Proof.Machine
end
